-- ==== Sys2Proof/Word.lean ====
section
/-! DEFINITION. The two word types of the block: bytes (R12) and the 32-bit argument (R75). -/

namespace Sys2Proof

/-- A byte: 8 bits, bit 0 the least significant (R12). -/
abbrev Byte := BitVec 8

/-- The 32-bit argument pattern of a request (R35, R75): it has no sign. -/
abbrev Word := BitVec 32

end Sys2Proof
end

