-- ==== Sys2Proof/Config.lean ====
section
/-! DEFINITION. What an implementation fixes: the constants of R9, and the free values of the places the spec
calls "unspecified: no value" (R41, R42). The command codes are in `Sys2Proof.Decode`. -/

namespace Sys2Proof.Config

/-- Bytes in one frame, either direction (R9). -/
@[simp] abbrev frameLen : Nat := 26

/-- Bytes of payload (R9). -/
@[simp] abbrev payloadLen : Nat := 22

/-- Frame index of payload byte 0 (R9). -/
@[simp] abbrev payloadOff : Nat := 3

/-- Frame index of the checksum byte, and the number of bytes summed (R9). -/
@[simp] abbrev ckOff : Nat := 25

/-- The constant first byte of a frame (R9). -/
abbrev preamble : Byte := 0xAA

/-- Bytes an argument occupies (R9). -/
@[simp] abbrev argBytes : Nat := 4

/-- The number of request commands (R9). -/
@[simp] abbrev nCmd : Nat := 19

/-- FREE VALUE (log entry 5): what frame-buffer byte `i` holds after the `n`-th reset edge (R230, R42). -/
opaque freeFrameByte (n i : Nat) : Byte

/-- FREE VALUE (log entry 5): what CMDREG holds after the `n`-th reset edge (R230, R42). -/
opaque freeCmd (n : Nat) : Byte

/-- FREE VALUE (log entry 5): what ADDRREG holds after the `n`-th reset edge (R230, R42). -/
opaque freeAddr (n : Nat) : Byte

/-- FREE VALUE (log entry 5): what ARGREG holds after the `n`-th reset edge (R230, R42). -/
opaque freeArg (n : Nat) : Word

/-- FREE VALUE (log entry 5): what ARGV holds after the `n`-th reset edge (R230, R42). -/
opaque freeArgv (n : Nat) : Bool

end Sys2Proof.Config
end

