-- ==== Sys2Proof/Machine/Bytes.lean ====
section
/-! DEFINITION. The byte-sequence primitives of R13 and R14: the sum modulo 256, slices, and little-endian
assembly. -/

namespace Sys2Proof.Machine

/-- `sum8(s)`: the sum of the bytes as integers, reduced modulo 256 once (R14, R100, R101). -/
def sum8 (s : List Byte) : Byte := BitVec.ofNat 8 ((s.map BitVec.toNat).sum)

/-- `zeros(n)`: `n` bytes of 0x00 (R13). -/
def zeros (n : Nat) : List Byte := List.replicate n 0

/-- `BYTES(s, o, n)`: the `n` bytes of `s` from index `o` (R14). -/
def bytesAt (s : List Byte) (o n : Nat) : List Byte := (s.drop o).take n

/-- The little-endian number of a byte sequence: the first byte is the least significant (R54, R55). -/
def leNat : List Byte → Nat
  | [] => 0
  | b :: bs => b.toNat + 256 * leNat bs

/-- The first `n` little-endian bytes of a number (R54, R55). -/
def leBytes : Nat → Nat → List Byte
  | 0, _ => []
  | n + 1, v => BitVec.ofNat 8 v :: leBytes n (v / 256)

/-- `le32(v)`: the four little-endian bytes of a 32-bit pattern (R14, R75). -/
def le32 (v : Word) : List Byte := leBytes 4 v.toNat

/-- `LE16(s, o)` (R14). -/
def LE16 (s : List Byte) (o : Nat) : BitVec 16 := BitVec.ofNat 16 (leNat (bytesAt s o 2))

/-- `LE32(s, o)` (R14). -/
def LE32 (s : List Byte) (o : Nat) : BitVec 32 := BitVec.ofNat 32 (leNat (bytesAt s o 4))

end Sys2Proof.Machine
end

