-- ==== Sys2Proof/Syntax.lean ====
section
/-! DEFINITION. The instructions: the 19 request commands (R76, R121 to R139) and the 6 status rows of a reply
(R78, R152 to R157), one constructor per row of spec/opcode_table.json, and the six operations that are macros over
the commands (R85, R140 to R145). -/

namespace Sys2Proof

/-- The 19 request commands, in the order of R76. -/
inductive Command where
  | setRemoteMode | setOutputPower | setMaxOutputVoltage | setOutputVoltage | setOutputCurrent
  | setCommAddr | read | calibMode | readCalibState | calibVoltage | sendActualVoltage | calibCurrent
  | sendActualCurrent | saveCalibData | setCalibInfo | readCalibInfo | readProductInfo
  | restoreFactoryDefault | enableLocalKey
deriving DecidableEq, Repr

/-- The reply classes of R80: telemetry, identity, status, undefined. -/
inductive ReplyClass where
  | T | I | S | U
deriving DecidableEq, Repr

/-- The six status classes of a class `S` reply (R78, R158). -/
inductive Status where
  | commandSuccessful | checksumIncorrect | parameterIncorrect | unrecognizedCommand | invalidCommand
  | unknown
deriving DecidableEq, Repr

/-- One constructor per row of spec/opcode_table.json. A request command carries the operands of the request
channel (R35, R120): the device address, whether an argument is present, and the argument, which is latched even when
it is not present (R181). A status row carries the 21 payload bytes behind the status byte (R72); the Unknown row also
carries its status byte (R157). -/
inductive Instr where
  | setRemoteMode (addr : Byte) (argValid : Bool) (arg : Word)
  | setOutputPower (addr : Byte) (argValid : Bool) (arg : Word)
  | setMaxOutputVoltage (addr : Byte) (argValid : Bool) (arg : Word)
  | setOutputVoltage (addr : Byte) (argValid : Bool) (arg : Word)
  | setOutputCurrent (addr : Byte) (argValid : Bool) (arg : Word)
  | setCommAddr (addr : Byte) (argValid : Bool) (arg : Word)
  | read (addr : Byte) (argValid : Bool) (arg : Word)
  | calibMode (addr : Byte) (argValid : Bool) (arg : Word)
  | readCalibState (addr : Byte) (argValid : Bool) (arg : Word)
  | calibVoltage (addr : Byte) (argValid : Bool) (arg : Word)
  | sendActualVoltage (addr : Byte) (argValid : Bool) (arg : Word)
  | calibCurrent (addr : Byte) (argValid : Bool) (arg : Word)
  | sendActualCurrent (addr : Byte) (argValid : Bool) (arg : Word)
  | saveCalibData (addr : Byte) (argValid : Bool) (arg : Word)
  | setCalibInfo (addr : Byte) (argValid : Bool) (arg : Word)
  | readCalibInfo (addr : Byte) (argValid : Bool) (arg : Word)
  | readProductInfo (addr : Byte) (argValid : Bool) (arg : Word)
  | restoreFactoryDefault (addr : Byte) (argValid : Bool) (arg : Word)
  | enableLocalKey (addr : Byte) (argValid : Bool) (arg : Word)
  | statusCommandSuccessful (raw : List Byte)
  | statusChecksumIncorrect (raw : List Byte)
  | statusParameterIncorrect (raw : List Byte)
  | statusUnrecognizedCommand (raw : List Byte)
  | statusInvalidCommand (raw : List Byte)
  | statusUnknown (status : Byte) (raw : List Byte)
deriving DecidableEq, Repr

namespace Command

/-- All commands, in the order of R76. -/
def all : List Command :=
  [.setRemoteMode, .setOutputPower, .setMaxOutputVoltage, .setOutputVoltage, .setOutputCurrent,
   .setCommAddr, .read, .calibMode, .readCalibState, .calibVoltage, .sendActualVoltage, .calibCurrent,
   .sendActualCurrent, .saveCalibData, .setCalibInfo, .readCalibInfo, .readProductInfo,
   .restoreFactoryDefault, .enableLocalKey]

/-- The reference index 0 to 18 of R76; it is on no port and not on the wire. -/
def index : Command → Nat
  | .setRemoteMode => 0 | .setOutputPower => 1 | .setMaxOutputVoltage => 2 | .setOutputVoltage => 3
  | .setOutputCurrent => 4 | .setCommAddr => 5 | .read => 6 | .calibMode => 7 | .readCalibState => 8
  | .calibVoltage => 9 | .sendActualVoltage => 10 | .calibCurrent => 11 | .sendActualCurrent => 12
  | .saveCalibData => 13 | .setCalibInfo => 14 | .readCalibInfo => 15 | .readProductInfo => 16
  | .restoreFactoryDefault => 17 | .enableLocalKey => 18

/-- The reply class of a command, the last column of R76's table. -/
def replyClass : Command → ReplyClass
  | .read => .T
  | .readProductInfo => .I
  | .setRemoteMode | .setOutputPower | .setMaxOutputVoltage | .setOutputVoltage | .setOutputCurrent
  | .setCommAddr | .calibMode | .readCalibState | .calibVoltage | .sendActualVoltage | .calibCurrent
  | .sendActualCurrent | .saveCalibData | .setCalibInfo | .readCalibInfo | .restoreFactoryDefault
  | .enableLocalKey => .S

/-- The instruction that requests a command with the given operands (R120). -/
def instr : Command → Byte → Bool → Word → Instr
  | .setRemoteMode => .setRemoteMode
  | .setOutputPower => .setOutputPower
  | .setMaxOutputVoltage => .setMaxOutputVoltage
  | .setOutputVoltage => .setOutputVoltage
  | .setOutputCurrent => .setOutputCurrent
  | .setCommAddr => .setCommAddr
  | .read => .read
  | .calibMode => .calibMode
  | .readCalibState => .readCalibState
  | .calibVoltage => .calibVoltage
  | .sendActualVoltage => .sendActualVoltage
  | .calibCurrent => .calibCurrent
  | .sendActualCurrent => .sendActualCurrent
  | .saveCalibData => .saveCalibData
  | .setCalibInfo => .setCalibInfo
  | .readCalibInfo => .readCalibInfo
  | .readProductInfo => .readProductInfo
  | .restoreFactoryDefault => .restoreFactoryDefault
  | .enableLocalKey => .enableLocalKey

end Command

/-- The two places an instruction reaches the block by: the request ports (R35), and the payload of a reply in the
frame buffer (R72). -/
inductive Channel where
  | request | reply
deriving DecidableEq, Repr

/-- The channel of an instruction: format REQ or format STATUS of R86. -/
def Instr.channel : Instr → Channel
  | .setRemoteMode _ _ _ | .setOutputPower _ _ _ | .setMaxOutputVoltage _ _ _ | .setOutputVoltage _ _ _
  | .setOutputCurrent _ _ _ | .setCommAddr _ _ _ | .read _ _ _ | .calibMode _ _ _ | .readCalibState _ _ _
  | .calibVoltage _ _ _ | .sendActualVoltage _ _ _ | .calibCurrent _ _ _ | .sendActualCurrent _ _ _
  | .saveCalibData _ _ _ | .setCalibInfo _ _ _ | .readCalibInfo _ _ _ | .readProductInfo _ _ _
  | .restoreFactoryDefault _ _ _ | .enableLocalKey _ _ _ => .request
  | .statusCommandSuccessful _ | .statusChecksumIncorrect _ | .statusParameterIncorrect _
  | .statusUnrecognizedCommand _ | .statusInvalidCommand _ | .statusUnknown _ _ => .reply

/-- The six operations of the document's surface (R85). -/
inductive Operation where
  | setRemoteMode (a : Word)
  | setOutputPower (a : Word)
  | setOutputVoltage (a : Word)
  | setOutputCurrent (a : Word)
  | readState
  | readProductInfo
deriving DecidableEq, Repr

/-- The command each operation expands to, at address 0 (R140 to R145). For the two operations without an argument the
rules leave the value on `req_arg` open (the `x` of R144 and R145): it is a parameter here
(log entry 13). -/
def Operation.expand (x : Word) : Operation → Instr
  | .setRemoteMode a => .setRemoteMode 0 true a
  | .setOutputPower a => .setOutputPower 0 true a
  | .setOutputVoltage a => .setOutputVoltage 0 true a
  | .setOutputCurrent a => .setOutputCurrent 0 true a
  | .readState => .read 0 false x
  | .readProductInfo => .readProductInfo 0 false x

end Sys2Proof
end

