-- ==== Sys2Proof/WellFormed.lean ====
section
/-! DEFINITION. Which instructions are well formed. A request's operands are plain fields of fixed width, so every
request is; a status row's payload bytes are a list, whose length the model checks and never mends (R110). -/

namespace Sys2Proof

/-- A status row's raw bytes are payload bytes 1 to 21: exactly 21 (R72, R152). -/
def Instr.rawOk (raw : List Byte) : Bool := raw.length == Config.payloadLen - 1

/-- The five named status values (R78, R9). -/
def Status.named : List Byte := [0x80, 0x90, 0xA0, 0xB0, 0xC0]

/-- Well-formedness: 21 raw bytes behind a status (R72, R110), and an Unknown status that is none of the five
named values (R157). -/
def Instr.wf : Instr → Bool
  | .setRemoteMode _ _ _ | .setOutputPower _ _ _ | .setMaxOutputVoltage _ _ _ | .setOutputVoltage _ _ _
  | .setOutputCurrent _ _ _ | .setCommAddr _ _ _ | .read _ _ _ | .calibMode _ _ _ | .readCalibState _ _ _
  | .calibVoltage _ _ _ | .sendActualVoltage _ _ _ | .calibCurrent _ _ _ | .sendActualCurrent _ _ _
  | .saveCalibData _ _ _ | .setCalibInfo _ _ _ | .readCalibInfo _ _ _ | .readProductInfo _ _ _
  | .restoreFactoryDefault _ _ _ | .enableLocalKey _ _ _ => true
  | .statusCommandSuccessful raw | .statusChecksumIncorrect raw | .statusParameterIncorrect raw
  | .statusUnrecognizedCommand raw | .statusInvalidCommand raw => Instr.rawOk raw
  | .statusUnknown st raw => Instr.rawOk raw && !Status.named.contains st

end Sys2Proof
end

