-- ==== Sys2Proof/Decode.lean ====
section
/-! DEFINITION. The command codes (R10, R77), the command-dispatch decoder (R80), the decoder of instructions from the
bytes of either channel, and the encoder. -/

namespace Sys2Proof

open Machine

/-- An instance of the open parameter `CMD_CODE` (R10): the codes of the commands, in the order of R76. -/
abbrev CmdCode := List Byte

/-- `CMD_CODE(c)` (R10). -/
def CmdCode.code (cc : CmdCode) (c : Command) : Byte := cc.getD c.index 0

/-- The constraints of R10 on an instance: 19 codes, `CMD_CODE(SetOutputVoltage) = 0x23`, no two commands with one
code. -/
def CmdCode.wf (cc : CmdCode) : Bool :=
  cc.length == Config.nCmd && (cc.code .setOutputVoltage == 0x23) && decide cc.Nodup

/-- PRESUMED (log entry 2): the default instance of R77. Only 0x23 is the document's; the spec marks the other 18 as
general knowledge. -/
def defaultCmdCode : CmdCode :=
  [0x20, 0x21, 0x22, 0x23, 0x24, 0x25, 0x26, 0x27, 0x28, 0x29, 0x2A, 0x2B, 0x2C, 0x2D, 0x2E, 0x2F,
   0x31, 0x32, 0x37]

/-- The command a byte is the code of, if it is one. -/
def CmdCode.lookup (cc : CmdCode) (b : Byte) : Option Command :=
  Command.all.find? (fun c => cc.code c == b)

/-- The dispatch decoder `class` of R80: total on the 256 bytes. -/
def classOf (cc : CmdCode) (b : Byte) : ReplyClass :=
  if b = cc.code .read then .T
  else if b = cc.code .readProductInfo then .I
  else if Command.all.any (fun c => cc.code c == b) then .S
  else .U

/-- The status class of a status byte: equality with the whole byte, no mask (R78, R151). -/
def Status.ofByte (b : Byte) : Status :=
  if b = 0x80 then .commandSuccessful
  else if b = 0x90 then .checksumIncorrect
  else if b = 0xA0 then .parameterIncorrect
  else if b = 0xB0 then .unrecognizedCommand
  else if b = 0xC0 then .invalidCommand
  else .unknown

/-- The status row a payload selects: status byte `st`, the 21 bytes behind it (R72, R78). -/
def Status.instr (st : Byte) (raw : List Byte) : Instr :=
  match Status.ofByte st with
  | .commandSuccessful => .statusCommandSuccessful raw
  | .checksumIncorrect => .statusChecksumIncorrect raw
  | .parameterIncorrect => .statusParameterIncorrect raw
  | .unrecognizedCommand => .statusUnrecognizedCommand raw
  | .invalidCommand => .statusInvalidCommand raw
  | .unknown => .statusUnknown st raw

/-- Why bytes are no instruction. -/
inductive DecodeError where
  /-- the request channel carries 7 bytes in the model's layout (log entry 6) -/
  | requestLength (n : Nat)
  /-- the command byte is none of the 19 codes: class U (R81) -/
  | undefinedCommand (cmd : Byte)
  /-- `req_arg_valid` is one bit: its byte is 0 or 1 in the model's layout (log entry 6) -/
  | argValidByte (b : Byte)
  /-- a payload is 22 bytes; another length is refused, never cut or padded (R110) -/
  | payloadLength (n : Nat)
deriving DecidableEq, Repr

/-- The request channel's fields as bytes (DESIGN CHOICE, log entry 6): command, address, argument little-endian,
argument-present bit. -/
def requestBytes (cmd addr : Byte) (argValid : Bool) (arg : Word) : List Byte :=
  cmd :: addr :: (le32 arg ++ [if argValid then 1 else 0])

/-- The decoder of the request channel: the command byte selects the row (R80, R86), the other ports are the
operands. -/
def decodeRequest (cc : CmdCode) : List Byte → Except DecodeError Instr
  | [cmd, addr, a0, a1, a2, a3, v] =>
    match cc.lookup cmd with
    | none => .error (.undefinedCommand cmd)
    | some c =>
      if v = 0 then .ok (c.instr addr false (BitVec.ofNat 32 (leNat [a0, a1, a2, a3])))
      else if v = 1 then .ok (c.instr addr true (BitVec.ofNat 32 (leNat [a0, a1, a2, a3])))
      else .error (.argValidByte v)
  | l => .error (.requestLength l.length)

/-- The decoder of the reply channel: payload byte 0 selects the status row (R72, R78, R86). -/
def decodeReply : List Byte → Except DecodeError Instr
  | [] => .error (.payloadLength 0)
  | st :: raw =>
    if Instr.rawOk raw then .ok (Status.instr st raw) else .error (.payloadLength (raw.length + 1))

/-- The decoder: total on any bytes of either channel. -/
def decode (cc : CmdCode) : Channel → List Byte → Except DecodeError Instr
  | .request, l => decodeRequest cc l
  | .reply, l => decodeReply l

/-- The encoder: the bytes an instruction is on its channel. -/
def encode (cc : CmdCode) : Instr → List Byte
  | .setRemoteMode a v x => requestBytes (cc.code .setRemoteMode) a v x
  | .setOutputPower a v x => requestBytes (cc.code .setOutputPower) a v x
  | .setMaxOutputVoltage a v x => requestBytes (cc.code .setMaxOutputVoltage) a v x
  | .setOutputVoltage a v x => requestBytes (cc.code .setOutputVoltage) a v x
  | .setOutputCurrent a v x => requestBytes (cc.code .setOutputCurrent) a v x
  | .setCommAddr a v x => requestBytes (cc.code .setCommAddr) a v x
  | .read a v x => requestBytes (cc.code .read) a v x
  | .calibMode a v x => requestBytes (cc.code .calibMode) a v x
  | .readCalibState a v x => requestBytes (cc.code .readCalibState) a v x
  | .calibVoltage a v x => requestBytes (cc.code .calibVoltage) a v x
  | .sendActualVoltage a v x => requestBytes (cc.code .sendActualVoltage) a v x
  | .calibCurrent a v x => requestBytes (cc.code .calibCurrent) a v x
  | .sendActualCurrent a v x => requestBytes (cc.code .sendActualCurrent) a v x
  | .saveCalibData a v x => requestBytes (cc.code .saveCalibData) a v x
  | .setCalibInfo a v x => requestBytes (cc.code .setCalibInfo) a v x
  | .readCalibInfo a v x => requestBytes (cc.code .readCalibInfo) a v x
  | .readProductInfo a v x => requestBytes (cc.code .readProductInfo) a v x
  | .restoreFactoryDefault a v x => requestBytes (cc.code .restoreFactoryDefault) a v x
  | .enableLocalKey a v x => requestBytes (cc.code .enableLocalKey) a v x
  | .statusCommandSuccessful raw => 0x80 :: raw
  | .statusChecksumIncorrect raw => 0x90 :: raw
  | .statusParameterIncorrect raw => 0xA0 :: raw
  | .statusUnrecognizedCommand raw => 0xB0 :: raw
  | .statusInvalidCommand raw => 0xC0 :: raw
  | .statusUnknown st raw => st :: raw

/-- The first `n` bytes of an instruction whose bits are `w`, of which the table gives `nbits`; every bit above
them is 0. -/
def tableBytes (n nbits w : Nat) : List Byte := leBytes n (w % 2 ^ nbits)

/-- The request a table word is, if it fits the request channel (7 bytes, 56 bits) and its command byte is a code. -/
def tableRequest (cc : CmdCode) (nbits w : Nat) : Option Instr :=
  if nbits ≤ 56 then (decodeRequest cc (tableBytes 7 nbits w)).toOption else none

/-- The instruction the decoder reads from a word of the opcode table. REQ rows match the request's command byte and
STATUS rows match payload byte 0 (R86), two places: a word whose low byte is a command code of the default instance is
a request, every other word is a reply payload (DESIGN CHOICE, log entry 6). -/
def decodeTableWord (nbits w : Nat) : Option Instr :=
  match tableRequest defaultCmdCode nbits w with
  | some i => some i
  | none => (decodeReply (tableBytes Config.payloadLen nbits w)).toOption

end Sys2Proof
end

