-- ==== Sys2Proof/Machine/State.lean ====
section
/-! DEFINITION. The state of the block (R20), the input ports at a clock edge (R35 to R40), the events the ordering
rules speak of (R52, R59), the reasons a step can stop, and the reset state (R41). -/

namespace Sys2Proof.Machine

/-- `PHASE` (R24). The spec's numbers are a port encoding only (D8): `Phase.code`. -/
inductive Phase where
  | idle | encoding | writing | awaitingReply | reading | decoding | success | protocolError
  | transportError | refused
deriving DecidableEq, Repr

/-- `RES_KIND` (R27). The spec's numbers are a port encoding only (D6): `ResKind.code`. -/
inductive ResKind where
  | none | okRaw | okTelemetry | okIdentity | errTransport | errChecksum | errRejected
  | errUnknownStatus | errMalformed | errBadRequest
deriving DecidableEq, Repr

/-- The six error outcomes (R200). -/
inductive Error where
  | transportError | checksumMismatch | deviceRejected | unknownStatus | malformed | badRequest
deriving DecidableEq, Repr

/-- The values on the input ports at one rising edge of `clk` (R35 to R40). -/
structure Inputs where
  /-- `rst`, synchronous, active high (R40, R230) -/
  rst : Bool
  reqValid : Bool
  reqAddr : Byte
  reqCmd : Byte
  reqArgValid : Bool
  reqArg : Word
  txReady : Bool
  txErr : Bool
  txErrCode : Byte
  rxValid : Bool
  rxData : Byte
  rxErr : Bool
  rxErrCode : Byte
  resReady : Bool
deriving DecidableEq, Repr

/-- All input ports low. -/
def Inputs.quiet : Inputs :=
  { rst := false, reqValid := false, reqAddr := 0, reqCmd := 0, reqArgValid := false, reqArg := 0,
    txReady := false, txErr := false, txErrCode := 0, rxValid := false, rxData := 0, rxErr := false,
    rxErrCode := 0, resReady := false }

/-- What happens at an edge, as R52 and R59 speak of it: the two stream events, and the accept, judgement, result
and reset events around them. -/
inductive Event where
  /-- an edge with `rst = 1` (R230) -/
  | reset
  /-- a request taken by ACCEPT (R181) -/
  | accepted (cmd addr : Byte) (argValid : Bool) (arg : Word)
  /-- `TxByte(b)`: one byte appended to the transmit stream (R52) -/
  | txByte (b : Byte)
  /-- `RxByte()` yielding `b`: one byte removed from the receive stream (R52) -/
  | rxByte (b : Byte)
  /-- the step that entered a terminal phase, with the result it recorded (R188, R210) -/
  | judged (kind : ResKind) (code : Byte)
  /-- the result handed to the caller by ACK (R189) -/
  | taken (kind : ResKind) (code : Byte)
deriving DecidableEq, Repr

/-- The frame buffer's contents: (index, byte) pairs with strictly rising indices; an unlisted byte reads as
`Memory.unlisted`. -/
abbrev Memory := List Host.Cell

/-- The state. `fb` to `resCode` are the tuple of R20; `cmdCode` is the parameter of R10 and R34; the last four
fields are the model's own. -/
structure State where
  /-- `FB[0..25]` (R21) -/
  fb : Memory
  /-- `CMDREG` (R22) -/
  cmdreg : Byte
  /-- `ADDRREG` (R22) -/
  addrreg : Byte
  /-- `ARGREG` (R22) -/
  argreg : Word
  /-- `ARGV` (R22) -/
  argv : Bool
  /-- `IDX` (R23) -/
  idx : BitVec 5
  /-- `PHASE` (R24): the program counter -/
  phase : Phase
  /-- `CK_OK` (R26) -/
  ckOk : Bool
  /-- `PRE_OK` (R26) -/
  preOk : Bool
  /-- `RES_KIND` (R27) -/
  resKind : ResKind
  /-- `RES_CODE` (R28) -/
  resCode : Byte
  /-- the instance of `CMD_CODE` (R10, R34; log entry 2): no step changes it (R63) -/
  cmdCode : CmdCode
  /-- the input ports at the coming edge (log entry 3) -/
  ports : Inputs
  /-- the input ports at the edges after it, oldest first (log entry 3) -/
  pending : List Inputs
  /-- the events so far, newest first (log entry 4) -/
  trace : List Event
  /-- how many reset edges there have been: what the free values are applied to (log entry 5) -/
  freeCount : Nat
deriving DecidableEq, Repr

/-- Why the machine stops: in states no run from reset reaches. -/
inductive Fault where
  /-- Raised by TX and RX when `IDX` is 26 to 31: there is no such frame-buffer byte (R50), and R54 calls an access
  beyond 26 undefined. Safe: the model stops. R23 and R30 (c) exclude it. -/
  | fbIndex (idx : BitVec 5)
  /-- Raised by DECODE when `CMDREG` holds a byte of class `U`: R150 calls this unreachable and gives it no effect.
  Safe: the model stops. R30 (d) excludes it. -/
  | classUndefined (cmd : Byte)
deriving DecidableEq, Repr

/-- Why the model gives no meaning. -/
inductive Refusal where
  /-- Raised by an arm of `exec` whose instruction has no meaning yet; safe. No arm does. -/
  | notModelled (mnemonic : String)
deriving DecidableEq, Repr

/-- The reset values of R41 for a given instance of `CMD_CODE`. FB and the four request latches have none in the spec:
their values here are a DESIGN CHOICE, UNSAFE (log entry 1). -/
def State.resetWith (cc : CmdCode) : State :=
  { fb := [], cmdreg := 0, addrreg := 0, argreg := 0, argv := false, idx := 0, phase := .idle,
    ckOk := false, preOk := false, resKind := .none, resCode := 0, cmdCode := cc,
    ports := .quiet, pending := [], trace := [], freeCount := 0 }

/-- The machine right after reset (R41), with the default instance of `CMD_CODE` (PRESUMED, log entry 2). -/
def State.reset : State := State.resetWith defaultCmdCode

end Sys2Proof.Machine
end

