-- ==== Sys2Proof/Machine/Operands.lean ====
section
/-! DEFINITION. The operand forms: the argument as a payload (R75, R106, R107), and the generic field extractor with
the offset and width tables of the two records (R73, R74, R159). -/

namespace Sys2Proof.Machine

/-- `PACKARG` (R106): the argument little-endian in payload bytes 0 to 3, zeros behind it; 22 zeros when there is no
argument. -/
def packArg (argValid : Bool) (arg : Word) : List Byte :=
  if argValid then le32 arg ++ zeros (Config.payloadLen - Config.argBytes) else zeros Config.payloadLen

/-- `UNPACKARG` (R107): the 32-bit value at payload offset 0. The block does not use it. -/
def unpackArg (p : List Byte) : Word := LE32 p 0

/-- Where a field of a payload stands: offset and width in bytes (R159). -/
structure FieldAt where
  off : Nat
  width : Nat
deriving DecidableEq, Repr

/-- `FIELD` for a byte-sequence field: the bytes in payload order (R159). -/
def fieldBytes (p : List Byte) (f : FieldAt) : List Byte := bytesAt p f.off f.width

/-- `FIELD` for an integer field: the little-endian number of its bytes (R159). -/
def fieldNum (n : Nat) (p : List Byte) (f : FieldAt) : BitVec n := BitVec.ofNat n (leNat (fieldBytes p f))

/-- The checked extractor: a field must lie inside a payload of 22 bytes (R159, R110). -/
def field? (p : List Byte) (off width : Nat) : Option Nat :=
  if p.length = Config.payloadLen ∧ off + width ≤ Config.payloadLen then some (leNat (bytesAt p off width))
  else none

/-! The telemetry form (R73). -/

def tmPresCurrent : FieldAt := ⟨0, 2⟩
def tmPresVoltage : FieldAt := ⟨2, 4⟩
def tmState : FieldAt := ⟨6, 1⟩
def tmCalibLow : FieldAt := ⟨7, 1⟩
def tmCalibHigh : FieldAt := ⟨8, 1⟩
def tmMaxVoltage : FieldAt := ⟨9, 4⟩
def tmOutVoltage : FieldAt := ⟨13, 4⟩
def tmReserved : FieldAt := ⟨17, 5⟩

/-- The telemetry fields in the order of R73's table. -/
def telemetryLayout : List FieldAt :=
  [tmPresCurrent, tmPresVoltage, tmState, tmCalibLow, tmCalibHigh, tmMaxVoltage, tmOutVoltage, tmReserved]

/-! The identity form (R74). -/

def idModel : FieldAt := ⟨0, 5⟩
def idPatch : FieldAt := ⟨5, 1⟩
def idFwVersion : FieldAt := ⟨6, 1⟩
def idSerial : FieldAt := ⟨7, 10⟩
def idReserved : FieldAt := ⟨17, 5⟩

/-- The identity fields in the order of R74's table. -/
def identityLayout : List FieldAt := [idModel, idPatch, idFwVersion, idSerial, idReserved]

/-! The status form (R72). -/

def stStatus : FieldAt := ⟨0, 1⟩
def stRaw : FieldAt := ⟨1, 21⟩

/-- The status fields in the order of R72's table. -/
def statusLayout : List FieldAt := [stStatus, stRaw]

end Sys2Proof.Machine
end

