-- ==== Sys2Proof/Machine/Flags.lean ====
section
/-! DEFINITION. The two flag computations: the checksum (R100, R104) and the preamble (R105). -/

namespace Sys2Proof.Machine

/-- `CKSUM` (R100): the sum of frame bytes 0 to 24 modulo 256. -/
def cksum (f : List Byte) : Byte := sum8 (f.take Config.ckOff)

/-- Byte `i` of a byte sequence; the functions below read it only inside a frame. -/
def byteAt (f : List Byte) (i : Nat) : Byte := f.getD i 0

/-- `VERIFY` (R104): the computed checksum equals frame byte 25. -/
def verify (f : List Byte) : Bool := cksum f == byteAt f Config.ckOff

/-- `preamble_valid` (R103, R105): frame byte 0 is 0xAA. -/
def preambleValid (f : List Byte) : Bool := byteAt f 0 == Config.preamble

end Sys2Proof.Machine
end

