-- ==== Sys2Proof/Machine/Codec.lean ====
section
/-! DEFINITION. The frame codec, level 1 (R19): ENCODE (R102) and DECODE (R103) on byte lists. -/

namespace Sys2Proof.Machine

/-- The 26 bytes of R102 for a payload of 22 bytes. -/
def frameOf (addr cmd : Byte) (payload : List Byte) : List Byte :=
  (Config.preamble :: addr :: cmd :: payload) ++ [sum8 (Config.preamble :: addr :: cmd :: payload)]

/-- `ENCODE` (R102). A payload list whose length is not 22 is refused, never cut or padded (R110). -/
def encodeFrame (addr cmd : Byte) (payload : List Byte) : Option (List Byte) :=
  if payload.length = Config.payloadLen then some (frameOf addr cmd payload) else none

/-- The results of `DECODE` (R103). -/
structure Decoded where
  address : Byte
  rcmd : Byte
  payload : List Byte
  checksumValid : Bool
  preambleValid : Bool
deriving DecidableEq, Repr

/-- The payload window of a frame: bytes 3 to 24 (R51, R71). -/
def payloadOf (f : List Byte) : List Byte := bytesAt f Config.payloadOff Config.payloadLen

/-- The five results of R103 for a frame of 26 bytes. -/
def partsOf (f : List Byte) : Decoded :=
  { address := byteAt f 1, rcmd := byteAt f 2, payload := payloadOf f,
    checksumValid := verify f, preambleValid := preambleValid f }

/-- `DECODE` (R103): defined on every frame of 26 bytes, whatever the two flags say. -/
def decodeFrame (f : List Byte) : Option Decoded :=
  if f.length = Config.frameLen then some (partsOf f) else none

/-- The request frame of a command (R120): `ENCODE(addr, CMD_CODE(c), PACKARG(arg_valid, arg))`. -/
def commandFrame (cc : CmdCode) (c : Command) (addr : Byte) (argValid : Bool) (arg : Word) : List Byte :=
  frameOf addr (cc.code c) (packArg argValid arg)

end Sys2Proof.Machine
end

