-- ==== Sys2Proof/Machine/Reply.lean ====
section
/-! DEFINITION. Reply decoding (42_reply_decode.md): the telemetry and identity records, the status classification,
and the judgement of a reply frame (R120, R150, R188). -/

namespace Sys2Proof.Machine

/-- The telemetry record (R160), its state byte split by R161. -/
structure Telemetry where
  presCurrent : BitVec 16
  presVoltage : BitVec 32
  state : Byte
  calibLow : Byte
  calibHigh : Byte
  maxVoltage : BitVec 32
  outVoltage : BitVec 32
  reserved : List Byte
deriving DecidableEq, Repr

/-- `TELEMETRY(P)` (R160). -/
def telemetry (p : List Byte) : Telemetry :=
  { presCurrent := fieldNum 16 p tmPresCurrent, presVoltage := fieldNum 32 p tmPresVoltage,
    state := fieldNum 8 p tmState, calibLow := fieldNum 8 p tmCalibLow, calibHigh := fieldNum 8 p tmCalibHigh,
    maxVoltage := fieldNum 32 p tmMaxVoltage, outVoltage := fieldNum 32 p tmOutVoltage,
    reserved := fieldBytes p tmReserved }

/-- State bit 0 (R79, R161). -/
def Telemetry.output (t : Telemetry) : Bool := t.state.getLsbD 0

/-- State bit 1 (R79, R161). -/
def Telemetry.heat (t : Telemetry) : Bool := t.state.getLsbD 1

/-- State bits 3:2 (R79, R161). -/
def Telemetry.mode (t : Telemetry) : BitVec 2 := t.state.extractLsb' 2 2

/-- State bits 6:4, passed through (R79, R161). -/
def Telemetry.stateRsvd (t : Telemetry) : BitVec 3 := t.state.extractLsb' 4 3

/-- State bit 7 (R79, R161). -/
def Telemetry.operation (t : Telemetry) : Bool := t.state.getLsbD 7

/-- The identity record (R163). -/
structure Identity where
  model : List Byte
  patch : Byte
  fwVersion : Byte
  serial : List Byte
  reserved : List Byte
deriving DecidableEq, Repr

/-- `IDENTITY(P)` (R163). -/
def identity (p : List Byte) : Identity :=
  { model := fieldBytes p idModel, patch := fieldNum 8 p idPatch, fwVersion := fieldNum 8 p idFwVersion,
    serial := fieldBytes p idSerial, reserved := fieldBytes p idReserved }

/-- The raw bytes behind a successful status: payload bytes 1 to 21 (R152). -/
def rawBytes (p : List Byte) : List Byte := fieldBytes p stRaw

/-- The result kind of a status class (R151 to R157). -/
def statusKind : Status → ResKind
  | .commandSuccessful => .okRaw
  | .checksumIncorrect | .parameterIncorrect | .unrecognizedCommand | .invalidCommand => .errRejected
  | .unknown => .errUnknownStatus

/-- `STATUS_RESULT(P)` (R151): kind and code from payload byte 0. -/
def statusResult (p : List Byte) : ResKind × Byte :=
  (statusKind (Status.ofByte (byteAt p 0)), byteAt p 0)

/-- `INTERPRET(c, P)` (R150), keyed by the reply class of the original command; class `U` is unreachable there. -/
def interpret (cls : ReplyClass) (p : List Byte) : Option (ResKind × Byte) :=
  match cls with
  | .T => some (.okTelemetry, 0)
  | .I => some (.okIdentity, 0)
  | .S => some (statusResult p)
  | .U => none

/-- What R120 returns for a reply frame, by the reply class of the command: checksum first, then preamble, then the
payload (R209). -/
def judgement (cls : ReplyClass) (f : List Byte) : Option (ResKind × Byte) :=
  if verify f = false then some (.errChecksum, 0)
  else if preambleValid f = false then some (.errMalformed, 0)
  else interpret cls (payloadOf f)

end Sys2Proof.Machine
end

