-- ==== Sys2Proof/Machine/Ops.lean ====
section
/-! DEFINITION. The named operations over the frame buffer (R54) and the registers: error entry (R210), the other
results (R188), return (R189, R212), the reset edge (R230), and the sampling of the input ports. -/

namespace Sys2Proof.Machine

/-! ### The frame buffer -/

/-- What an unlisted frame-buffer byte reads as. The spec gives none (R41): DESIGN CHOICE, UNSAFE (log entry 1). -/
def Memory.unlisted : Byte := 0

/-- One byte. -/
def Memory.read : Memory → Nat → Byte
  | [], _ => Memory.unlisted
  | (k, v) :: m, a => if k = a then v else Memory.read m a

/-- The entries a byte leaves in a canonical list: none when it is what an unlisted index reads as. -/
def Memory.entry (a : Nat) (b : Byte) (m : Memory) : Memory :=
  if b = Memory.unlisted then m else (a, b) :: m

/-- `FB[a] <- b`, keeping the canonical form. -/
def Memory.write : Memory → Nat → Byte → Memory
  | [], a, b => Memory.entry a b []
  | (k, v) :: m, a, b =>
    if a < k then Memory.entry a b ((k, v) :: m)
    else if a = k then Memory.entry a b m
    else (k, v) :: Memory.write m a b

/-- The canonical form above a lower bound: indices strictly rising and inside the frame buffer (R50), no entry equal
to what an unlisted index reads as. -/
def Memory.wfFrom : Nat → Memory → Bool
  | _, [] => true
  | lo, (k, v) :: m =>
    decide (lo ≤ k) && decide (k < Config.frameLen) && (v != Memory.unlisted) && Memory.wfFrom (k + 1) m

/-- The canonical form. -/
def Memory.wf (m : Memory) : Bool := Memory.wfFrom 0 m

/-- Writes consecutive bytes from index `a`. -/
def Memory.store (m : Memory) (a : Nat) : List Byte → Memory
  | [] => m
  | b :: bs => Memory.store (m.write a b) (a + 1) bs

/-- Reads `n` consecutive bytes from index `a`. -/
def Memory.load (m : Memory) (a : Nat) : Nat → List Byte
  | 0 => []
  | n + 1 => m.read a :: Memory.load m (a + 1) n

/-- The whole buffer as a frame: bytes 0 to 25. -/
def Memory.frame (m : Memory) : List Byte := m.load 0 Config.frameLen

/-- A byte of the buffer; an index beyond 25 does not exist (R50, R54). -/
def Memory.read? (m : Memory) (a : Nat) : Option Byte := if a < Config.frameLen then some (m.read a) else none

/-- A store to a byte of the buffer; an index beyond 25 does not exist (R50, R54). -/
def Memory.write? (m : Memory) (a : Nat) (b : Byte) : Option Memory :=
  if a < Config.frameLen then some (m.write a b) else none

/-- `MemRead(a, n)` (R54): little-endian, for `1 <= n` and `a + n <= 26`; undefined otherwise (log entry 8). -/
def memRead (m : Memory) (a n : Nat) : Option Nat :=
  if 1 ≤ n ∧ a + n ≤ Config.frameLen then some (leNat (m.load a n)) else none

/-- `MemWrite(a, n, v)` (R54): the `n` little-endian bytes of `v`, for `1 <= n` and `a + n <= 26`; undefined
otherwise (log entry 8). -/
def memWrite (m : Memory) (a n v : Nat) : Option Memory :=
  if 1 ≤ n ∧ a + n ≤ Config.frameLen then some (m.store a (leBytes n v)) else none

/-! ### Codes of the phases, kinds and errors -/

/-- The number of a phase (R24). -/
def Phase.code : Phase → BitVec 4
  | .idle => 0 | .encoding => 1 | .writing => 2 | .awaitingReply => 3 | .reading => 4 | .decoding => 5
  | .success => 6 | .protocolError => 7 | .transportError => 8 | .refused => 9

/-- The terminal phases (R17, R24). -/
def Phase.terminal : Phase → Bool
  | .success | .protocolError | .transportError | .refused => true
  | .idle | .encoding | .writing | .awaitingReply | .reading | .decoding => false

/-- The number of a result kind (R27). -/
def ResKind.code : ResKind → BitVec 4
  | .none => 0 | .okRaw => 1 | .okTelemetry => 2 | .okIdentity => 3 | .errTransport => 4 | .errChecksum => 5
  | .errRejected => 6 | .errUnknownStatus => 7 | .errMalformed => 8 | .errBadRequest => 9

/-- The result kind of an error (R207). -/
def Error.kind : Error → ResKind
  | .transportError => .errTransport
  | .checksumMismatch => .errChecksum
  | .deviceRejected => .errRejected
  | .unknownStatus => .errUnknownStatus
  | .malformed => .errMalformed
  | .badRequest => .errBadRequest

/-- The terminal phase of an error (R27, R207). -/
def Error.terminal : Error → Phase
  | .transportError => .transportError
  | .checksumMismatch | .deviceRejected | .unknownStatus | .malformed => .protocolError
  | .badRequest => .refused

/-! ### Entry, result and return -/

/-- Error entry, `raise E(info)` (R210): the ONE operation by which every error is taken. Nothing else changes.
IDX becomes 0 at a refusal too (log entry 12). -/
def raise (e : Error) (info : Byte) (s : State) : State :=
  { s with resKind := e.kind, resCode := info, idx := 0, phase := e.terminal,
           trace := .judged e.kind info :: s.trace }

/-- A success (R188): kind and code recorded, phase `Success`. -/
def succeed (kind : ResKind) (code : Byte) (s : State) : State :=
  { s with resKind := kind, resCode := code, phase := .success, trace := .judged kind code :: s.trace }

/-- The DECODE step's write of both flags (R26, R188). -/
def setFlags (ck pre : Bool) (s : State) : State := { s with ckOk := ck, preOk := pre }

/-- Return, step ACK (R189, R212): the result and the flags are cleared and the block is idle. -/
def ack (s : State) : State :=
  { s with resKind := .none, resCode := 0, ckOk := false, preOk := false, phase := .idle,
           trace := .taken s.resKind s.resCode :: s.trace }

/-- The edge with `rst = 1` (R230): the control registers take the values of R41; FB and the request latches are
unspecified, so they become free values (log entry 5). Nothing is sent or consumed (R230, R231). -/
def resetEdge (s : State) : State :=
  { s with
    fb := Memory.store [] 0 ((List.range Config.frameLen).map (Config.freeFrameByte s.freeCount))
    cmdreg := Config.freeCmd s.freeCount
    addrreg := Config.freeAddr s.freeCount
    argreg := Config.freeArg s.freeCount
    argv := Config.freeArgv s.freeCount
    idx := 0
    phase := .idle
    ckOk := false
    preOk := false
    resKind := .none
    resCode := 0
    trace := .reset :: s.trace
    freeCount := s.freeCount + 1 }

/-- After an edge the ports show the next sample; with none left they hold their levels (log entry 3). -/
def nextInputs (s : State) : State :=
  match s.pending with
  | [] => s
  | p :: ps => { s with ports := p, pending := ps }

/-- The registers the frame rules speak of: the request frame the latches ask for (R182). -/
def requestFrame (s : State) : List Byte := frameOf s.addrreg s.cmdreg (packArg s.argv s.argreg)

/-- The reply class of the original command (R80, R150). -/
def replyClassOf (s : State) : ReplyClass := classOf s.cmdCode s.cmdreg

/-! ### The streams -/

/-- The transmit stream (R50, R52): the bytes handed over, oldest first. -/
def State.txStream (s : State) : List Byte :=
  s.trace.reverse.filterMap (fun e => match e with | .txByte b => some b | _ => none)

/-- What has been taken from the receive stream (R50, R52), oldest first. -/
def State.rxTaken (s : State) : List Byte :=
  s.trace.reverse.filterMap (fun e => match e with | .rxByte b => some b | _ => none)

end Sys2Proof.Machine
end

