-- ==== Sys2Proof/Machine/Status.lean ====
section
/-! DEFINITION. The meanings of the six status rows (R152 to R157): what DECODE does with a reply of class `S` whose
checksum and preamble are good (R151, R188), and the choice among them by payload byte 0. -/

namespace Sys2Proof.Machine

/-- The state in which a status row with this status byte and these raw bytes is what DECODE meets: phase
`Decoding`, original command of class `S`, good checksum, good preamble, and this payload in the frame buffer (R78,
R151, R188). -/
def holdsReply (st : Byte) (raw : List Byte) (s : State) : Bool :=
  decide (s.phase = .decoding) && decide (replyClassOf s = .S) && verify s.fb.frame &&
    preambleValid s.fb.frame && decide (payloadOf s.fb.frame = st :: raw)

/-- Shared by the rejecting rows (R153 to R156): both flags set, `raise DeviceRejected(st)`. Where the row is not what
the block is decoding no step of it is enabled and nothing changes (R180; log entry 11). -/
def rejectReply (st : Byte) (raw : List Byte) (s : State) : Host.Outcome State Fault Refusal :=
  if holdsReply st raw s then .next (raise .deviceRejected st (setFlags true true s)) else .next s

/-- Status 0x80, CommandSuccessful (R152): (`OK_RAW`, 0x80). The raw bytes stay in FB and are delivered on
`raw_bytes` (R39). -/
def execStatusCommandSuccessful (raw : List Byte) (s : State) : Host.Outcome State Fault Refusal :=
  if holdsReply 0x80 raw s then .next (succeed .okRaw 0x80 (setFlags true true s)) else .next s

/-- Status 0x90, ChecksumIncorrect (R153): (`ERR_REJECTED`, 0x90). -/
def execStatusChecksumIncorrect (raw : List Byte) (s : State) : Host.Outcome State Fault Refusal :=
  rejectReply 0x90 raw s

/-- Status 0xA0, ParameterIncorrect (R154): (`ERR_REJECTED`, 0xA0). -/
def execStatusParameterIncorrect (raw : List Byte) (s : State) : Host.Outcome State Fault Refusal :=
  rejectReply 0xA0 raw s

/-- Status 0xB0, UnrecognizedCommand (R155): (`ERR_REJECTED`, 0xB0). -/
def execStatusUnrecognizedCommand (raw : List Byte) (s : State) : Host.Outcome State Fault Refusal :=
  rejectReply 0xB0 raw s

/-- Status 0xC0, InvalidCommand (R156): (`ERR_REJECTED`, 0xC0). -/
def execStatusInvalidCommand (raw : List Byte) (s : State) : Host.Outcome State Fault Refusal :=
  rejectReply 0xC0 raw s

/-- Any other status byte, Unknown (R157): (`ERR_UNKNOWN_STATUS`, the byte). The row applies only when no other status
row matches (R86). -/
def execStatusUnknown (st : Byte) (raw : List Byte) (s : State) : Host.Outcome State Fault Refusal :=
  if holdsReply st raw s && decide (Status.ofByte st = .unknown) then
    .next (raise .unknownStatus st (setFlags true true s))
  else .next s

/-- DECODE's last case (R151, R188): the status row that payload byte 0 selects is carried out. -/
def statusStep (p : List Byte) (s : State) : Host.Outcome State Fault Refusal :=
  match Status.ofByte (byteAt p 0) with
  | .commandSuccessful => execStatusCommandSuccessful (rawBytes p) s
  | .checksumIncorrect => execStatusChecksumIncorrect (rawBytes p) s
  | .parameterIncorrect => execStatusParameterIncorrect (rawBytes p) s
  | .unrecognizedCommand => execStatusUnrecognizedCommand (rawBytes p) s
  | .invalidCommand => execStatusInvalidCommand (rawBytes p) s
  | .unknown => execStatusUnknown (byteAt p 0) (rawBytes p) s

end Sys2Proof.Machine
end

