-- ==== Sys2Proof/Machine/Exchange.lean ====
section
/-! DEFINITION. The eight steps of the exchange machine (R181 to R189), one edge of the exchange in progress, and one
edge of a given request (`REQUEST`, R120): the operation every command's meaning is. -/

namespace Sys2Proof.Machine

/-- The latches of ACCEPT's accepting branch (R181). ARGREG takes `req_arg` even when there is no argument. -/
def latch (cmd addr : Byte) (argValid : Bool) (arg : Word) (s : State) : State :=
  { s with cmdreg := cmd, addrreg := addr, argv := argValid, argreg := arg, phase := .encoding,
           trace := .accepted cmd addr argValid arg :: s.trace }

/-- Step ACCEPT (R181): a command byte of class `U` is refused and nothing is latched (R206); any other is latched. -/
def acceptStep (cmd addr : Byte) (argValid : Bool) (arg : Word) (s : State) : State :=
  if classOf s.cmdCode cmd = .U then raise .badRequest cmd s else latch cmd addr argValid arg s

/-- Step ENCODE (R182): all 26 bytes of FB in one step. -/
def encodeStep (s : State) : State :=
  { s with fb := s.fb.store 0 (requestFrame s), idx := 0, phase := .writing }

/-- The hand-over of TX (R183): the event `TxByte(b)`, and IDX and PHASE after it. -/
def txByte (b : Byte) (s : State) : State :=
  if s.idx = 25 then { s with idx := 0, phase := .awaitingReply, trace := .txByte b :: s.trace }
  else { s with idx := s.idx + 1, trace := .txByte b :: s.trace }

/-- Phase `Writing`: step TXFAIL when `tx_err` (R184, it wins over an acceptance: R209), else step TX when `tx_ready`
(R183), else a waiting edge. -/
def writingStep (s : State) : Host.Outcome State Fault Refusal :=
  if s.ports.txErr then .next (raise .transportError s.ports.txErrCode s)
  else if s.ports.txReady then
    match s.fb.read? s.idx.toNat with
    | some b => .next (txByte b s)
    | none => .fault (.fbIndex s.idx)
  else .next s

/-- The store of RX (R185): the event `RxByte()` yielding `b`, the buffer after it, and IDX and PHASE. -/
def rxByte (b : Byte) (m : Memory) (s : State) : State :=
  if s.idx = 25 then { s with fb := m, idx := 0, phase := .decoding, trace := .rxByte b :: s.trace }
  else { s with fb := m, idx := s.idx + 1, phase := .reading, trace := .rxByte b :: s.trace }

/-- Phases `AwaitingReply` and `Reading`: step RXFAIL when `rx_err` (R187, it wins over a byte: R209), else step RX
when `rx_valid` (R185), else a waiting edge. -/
def readingStep (s : State) : Host.Outcome State Fault Refusal :=
  if s.ports.rxErr then .next (raise .transportError s.ports.rxErrCode s)
  else if s.ports.rxValid then
    match s.fb.write? s.idx.toNat s.ports.rxData with
    | some m => .next (rxByte s.ports.rxData m s)
    | none => .fault (.fbIndex s.idx)
  else .next s

/-- Step DECODE (R188): checksum, then preamble, then the reading of the payload that the original command's class
chooses (R150, R209). -/
def decodeStep (s : State) : Host.Outcome State Fault Refusal :=
  let f := s.fb.frame
  let flagged := setFlags (verify f) (preambleValid f) s
  if verify f = false then .next (raise .checksumMismatch 0 flagged)
  else if preambleValid f = false then .next (raise .malformed 0 flagged)
  else
    match replyClassOf s with
    | .T => .next (succeed .okTelemetry 0 flagged)
    | .I => .next (succeed .okIdentity 0 flagged)
    | .S => statusStep (payloadOf f) s
    | .U => .fault (.classUndefined s.cmdreg)

/-- A terminal phase: step ACK when `res_ready` (R189), else the result is held. -/
def ackStep (s : State) : Host.Outcome State Fault Refusal :=
  if s.ports.resReady then .next (ack s) else .next s

/-- One edge of the exchange in progress, by phase (R180, R193). In `Idle` there is none. -/
def exchange (s : State) : Host.Outcome State Fault Refusal :=
  match s.phase with
  | .idle => .next s
  | .encoding => .next (encodeStep s)
  | .writing => writingStep s
  | .awaitingReply => readingStep s
  | .reading => readingStep s
  | .decoding => decodeStep s
  | .success => ackStep s
  | .protocolError => ackStep s
  | .transportError => ackStep s
  | .refused => ackStep s

/-- The request latches hold this request (R22): the exchange in progress is its own. -/
def holdsRequest (cmd addr : Byte) (argValid : Bool) (arg : Word) (s : State) : Bool :=
  decide (s.cmdreg = cmd) && decide (s.addrreg = addr) && decide (s.argv = argValid) &&
    decide (s.argreg = arg)

/-- One edge of `REQUEST(c, addr, arg_valid, arg)` (R120), the operation every command's meaning is: ACCEPT in
`Idle`; while the exchange in progress is this request's, that exchange's next step; otherwise the request waits on the
port and changes nothing (R59 (a), R234; log entry 11). In `Refused` the exchange was of no defined command. -/
def request (c : Command) (addr : Byte) (argValid : Bool) (arg : Word) (s : State) :
    Host.Outcome State Fault Refusal :=
  match s.phase with
  | .idle => .next (acceptStep (s.cmdCode.code c) addr argValid arg s)
  | .refused => .next s
  | .encoding | .writing | .awaitingReply | .reading | .decoding | .success | .protocolError
  | .transportError =>
    if holdsRequest (s.cmdCode.code c) addr argValid arg s then exchange s else .next s

end Sys2Proof.Machine
end

