-- ==== Sys2Proof/Machine/Calibration.lean ====
section
/-! DEFINITION. The meanings of the calibration commands (R128 to R136). Each is one edge of the
command's exchange (R120). -/

namespace Sys2Proof.Machine

/-- `CalibMode` (R128). Reply class S. No mode or key gates it (R215). -/
def execCalibMode (addr : Byte) (argValid : Bool) (arg : Word) (s : State) :
    Host.Outcome State Fault Refusal :=
  request .calibMode addr argValid arg s

/-- `ReadCalibState` (R129). Reply class S, although the name says Read: what it reads back is in the raw bytes. -/
def execReadCalibState (addr : Byte) (argValid : Bool) (arg : Word) (s : State) :
    Host.Outcome State Fault Refusal :=
  request .readCalibState addr argValid arg s

/-- `CalibVoltage` (R130). Reply class S. -/
def execCalibVoltage (addr : Byte) (argValid : Bool) (arg : Word) (s : State) :
    Host.Outcome State Fault Refusal :=
  request .calibVoltage addr argValid arg s

/-- `SendActualVoltage` (R131). Reply class S. -/
def execSendActualVoltage (addr : Byte) (argValid : Bool) (arg : Word) (s : State) :
    Host.Outcome State Fault Refusal :=
  request .sendActualVoltage addr argValid arg s

/-- `CalibCurrent` (R132). Reply class S. -/
def execCalibCurrent (addr : Byte) (argValid : Bool) (arg : Word) (s : State) :
    Host.Outcome State Fault Refusal :=
  request .calibCurrent addr argValid arg s

/-- `SendActualCurrent` (R133). Reply class S. -/
def execSendActualCurrent (addr : Byte) (argValid : Bool) (arg : Word) (s : State) :
    Host.Outcome State Fault Refusal :=
  request .sendActualCurrent addr argValid arg s

/-- `SaveCalibData` (R134). Reply class S. What it saves is saved in the device. -/
def execSaveCalibData (addr : Byte) (argValid : Bool) (arg : Word) (s : State) :
    Host.Outcome State Fault Refusal :=
  request .saveCalibData addr argValid arg s

/-- `SetCalibInfo` (R135). Reply class S. At most four payload bytes of a request are not zero. -/
def execSetCalibInfo (addr : Byte) (argValid : Bool) (arg : Word) (s : State) :
    Host.Outcome State Fault Refusal :=
  request .setCalibInfo addr argValid arg s

/-- `ReadCalibInfo` (R136). Reply class S: what it reads back is in the raw bytes. -/
def execReadCalibInfo (addr : Byte) (argValid : Bool) (arg : Word) (s : State) :
    Host.Outcome State Fault Refusal :=
  request .readCalibInfo addr argValid arg s

end Sys2Proof.Machine
end

