-- ==== Sys2Proof/Machine/Control.lean ====
section
/-! DEFINITION. The meanings of the commands that set or select something in the device (R121 to R126, R138, R139). Each is one edge of the
command's exchange (R120). -/

namespace Sys2Proof.Machine

/-- `SetRemoteMode` (R121). Reply class S. The argument is 0 (front panel) or 1 (remote) at the document's surface; any pattern is sent as given (D11). -/
def execSetRemoteMode (addr : Byte) (argValid : Bool) (arg : Word) (s : State) :
    Host.Outcome State Fault Refusal :=
  request .setRemoteMode addr argValid arg s

/-- `SetOutputPower` (R122). Reply class S. The argument is 0 (off) or 1 (on) at the document's surface; any pattern is sent as given (D11). -/
def execSetOutputPower (addr : Byte) (argValid : Bool) (arg : Word) (s : State) :
    Host.Outcome State Fault Refusal :=
  request .setOutputPower addr argValid arg s

/-- `SetMaxOutputVoltage` (R123). Reply class S. The document gives the argument no meaning and no unit. -/
def execSetMaxOutputVoltage (addr : Byte) (argValid : Bool) (arg : Word) (s : State) :
    Host.Outcome State Fault Refusal :=
  request .setMaxOutputVoltage addr argValid arg s

/-- `SetOutputVoltage` (R124). Reply class S. The argument is in millivolts; its code 0x23 is the one the document states. -/
def execSetOutputVoltage (addr : Byte) (argValid : Bool) (arg : Word) (s : State) :
    Host.Outcome State Fault Refusal :=
  request .setOutputVoltage addr argValid arg s

/-- `SetOutputCurrent` (R125). Reply class S. The argument is in milliamps, four bytes like every argument. -/
def execSetOutputCurrent (addr : Byte) (argValid : Bool) (arg : Word) (s : State) :
    Host.Outcome State Fault Refusal :=
  request .setOutputCurrent addr argValid arg s

/-- `SetCommAddr` (R126). Reply class S. It changes no state of the block, which keeps no device address of its own (R11). -/
def execSetCommAddr (addr : Byte) (argValid : Bool) (arg : Word) (s : State) :
    Host.Outcome State Fault Refusal :=
  request .setCommAddr addr argValid arg s

/-- `RestoreFactoryDefault` (R138). Reply class S. It restores nothing in the block. -/
def execRestoreFactoryDefault (addr : Byte) (argValid : Bool) (arg : Word) (s : State) :
    Host.Outcome State Fault Refusal :=
  request .restoreFactoryDefault addr argValid arg s

/-- `EnableLocalKey` (R139). Reply class S. -/
def execEnableLocalKey (addr : Byte) (argValid : Bool) (arg : Word) (s : State) :
    Host.Outcome State Fault Refusal :=
  request .enableLocalKey addr argValid arg s

end Sys2Proof.Machine
end

