-- ==== Sys2Proof/Machine/Records.lean ====
section
/-! DEFINITION. The meanings of the two commands whose replies are records (R127, R137). Each is one edge of the
command's exchange (R120). -/

namespace Sys2Proof.Machine

/-- `Read` (R127). Reply class T: the payload is a telemetry record and no byte of it is a status (R238). -/
def execRead (addr : Byte) (argValid : Bool) (arg : Word) (s : State) :
    Host.Outcome State Fault Refusal :=
  request .read addr argValid arg s

/-- `ReadProductInfo` (R137). Reply class I: the payload is an identity record and no byte of it is a status (R238). -/
def execReadProductInfo (addr : Byte) (argValid : Bool) (arg : Word) (s : State) :
    Host.Outcome State Fault Refusal :=
  request .readProductInfo addr argValid arg s

end Sys2Proof.Machine
end

