-- ==== Sys2Proof/Machine/Dispatch.lean ====
section
/-! DEFINITION. exec: one arm per row of spec/opcode_table.json, each a call of its meaning. -/

namespace Sys2Proof.Machine

def exec (i : Instr) (s : State) : Host.Outcome State Fault Refusal :=
  match i with
  | .setRemoteMode addr argValid arg => Sys2Proof.Machine.execSetRemoteMode addr argValid arg s
  | .setOutputPower addr argValid arg => Sys2Proof.Machine.execSetOutputPower addr argValid arg s
  | .setMaxOutputVoltage addr argValid arg => Sys2Proof.Machine.execSetMaxOutputVoltage addr argValid arg s
  | .setOutputVoltage addr argValid arg => Sys2Proof.Machine.execSetOutputVoltage addr argValid arg s
  | .setOutputCurrent addr argValid arg => Sys2Proof.Machine.execSetOutputCurrent addr argValid arg s
  | .setCommAddr addr argValid arg => Sys2Proof.Machine.execSetCommAddr addr argValid arg s
  | .read addr argValid arg => Sys2Proof.Machine.execRead addr argValid arg s
  | .calibMode addr argValid arg => Sys2Proof.Machine.execCalibMode addr argValid arg s
  | .readCalibState addr argValid arg => Sys2Proof.Machine.execReadCalibState addr argValid arg s
  | .calibVoltage addr argValid arg => Sys2Proof.Machine.execCalibVoltage addr argValid arg s
  | .sendActualVoltage addr argValid arg => Sys2Proof.Machine.execSendActualVoltage addr argValid arg s
  | .calibCurrent addr argValid arg => Sys2Proof.Machine.execCalibCurrent addr argValid arg s
  | .sendActualCurrent addr argValid arg => Sys2Proof.Machine.execSendActualCurrent addr argValid arg s
  | .saveCalibData addr argValid arg => Sys2Proof.Machine.execSaveCalibData addr argValid arg s
  | .setCalibInfo addr argValid arg => Sys2Proof.Machine.execSetCalibInfo addr argValid arg s
  | .readCalibInfo addr argValid arg => Sys2Proof.Machine.execReadCalibInfo addr argValid arg s
  | .readProductInfo addr argValid arg => Sys2Proof.Machine.execReadProductInfo addr argValid arg s
  | .restoreFactoryDefault addr argValid arg => Sys2Proof.Machine.execRestoreFactoryDefault addr argValid arg s
  | .enableLocalKey addr argValid arg => Sys2Proof.Machine.execEnableLocalKey addr argValid arg s
  | .statusCommandSuccessful raw => Sys2Proof.Machine.execStatusCommandSuccessful raw s
  | .statusChecksumIncorrect raw => Sys2Proof.Machine.execStatusChecksumIncorrect raw s
  | .statusParameterIncorrect raw => Sys2Proof.Machine.execStatusParameterIncorrect raw s
  | .statusUnrecognizedCommand raw => Sys2Proof.Machine.execStatusUnrecognizedCommand raw s
  | .statusInvalidCommand raw => Sys2Proof.Machine.execStatusInvalidCommand raw s
  | .statusUnknown status raw => Sys2Proof.Machine.execStatusUnknown status raw s

end Sys2Proof.Machine
end

