-- ==== Sys2Proof/Machine/Fetch.lean ====
section
/-! DEFINITION. Which instruction the block is carrying out at an edge, and the placing of an instruction where the
next edge meets it. The block fetches no instructions from a memory (R24, R63): a request stands on the request ports
in `Idle` and in the request latches after ACCEPT; a status row stands in the payload of a reply. -/

namespace Sys2Proof.Machine

/-- The bytes of the request on the ports (R35). -/
def portRequest (p : Inputs) : List Byte := requestBytes p.reqCmd p.reqAddr p.reqArgValid p.reqArg

/-- The bytes of the request in the latches (R22). -/
def latchedRequest (s : State) : List Byte := requestBytes s.cmdreg s.addrreg s.argv s.argreg

/-- The instruction carried out at this edge: the request offered in `Idle`, the latched one while its exchange is in
progress, none in `Refused`. -/
def fetch (s : State) : Option Instr :=
  match s.phase with
  | .idle => if s.ports.reqValid then (decode s.cmdCode .request (portRequest s.ports)).toOption else none
  | .refused => none
  | .encoding | .writing | .awaitingReply | .reading | .decoding | .success | .protocolError
  | .transportError => (decode s.cmdCode .request (latchedRequest s)).toOption

/-- An edge with no defined instruction: a request of an undefined command is refused by ACCEPT (R181); anything else
is the exchange's own edge, or a wait in `Idle`. -/
def noInstr (s : State) : Host.Outcome State Fault Refusal :=
  if s.phase = .idle then
    if s.ports.reqValid then
      .next (acceptStep s.ports.reqCmd s.ports.reqAddr s.ports.reqArgValid s.ports.reqArg s)
    else .next s
  else exchange s

/-- One rising edge of `clk` with the inputs on the ports: reset wins over every step (R230). -/
def edge (s : State) : Host.Outcome State Fault Refusal :=
  if s.ports.rst then .next (resetEdge s)
  else
    match fetch s with
    | some i => exec i s
    | none => noInstr s

/-- A request offered on the ports, the block idle and not in reset. -/
def placeRequest (bs : List Byte) (s : State) : State :=
  { s with phase := .idle,
           ports := { s.ports with
             rst := false, reqValid := true, reqCmd := byteAt bs 0, reqAddr := byteAt bs 1,
             reqArg := BitVec.ofNat 32 (leNat (bytesAt bs 2 4)), reqArgValid := byteAt bs 6 == 1 } }

/-- A reply with this payload received whole and not yet judged, to a command of class `S` (SetOutputVoltage, the one
whose code the document gives), not in reset. -/
def placeReply (p : List Byte) (s : State) : State :=
  { s with phase := .decoding, cmdreg := s.cmdCode.code .setOutputVoltage,
           fb := s.fb.store 0 (frameOf 0 0 p), ports := { s.ports with rst := false } }

/-- The table word placed on the channel the decoder reads it from (log entries 6 and 10). -/
def placeTableWord (nbits w : Nat) (s : State) : State :=
  match tableRequest s.cmdCode nbits w with
  | some _ => placeRequest (tableBytes 7 nbits w) s
  | none => placeReply (tableBytes Config.payloadLen nbits w) s

end Sys2Proof.Machine
end

