-- ==== Sys2Proof/Machine/Step.lean ====
section
/-! DEFINITION. The step: one clock edge, then the next sample of the input ports. -/

namespace Sys2Proof.Machine

/-- One step of the machine. -/
def step (s : State) : Host.Outcome State Fault Refusal :=
  match edge s with
  | .next t => .next (nextInputs t)
  | .fault r => .fault r
  | .refused r => .refused r

/-- The state with a table word where the next step meets it (log entry 10). -/
def State.withFetchWord (s : State) (nbits w : Nat) : State := placeTableWord nbits w s

end Sys2Proof.Machine
end

