-- ==== Sys2Proof/Machine/Outputs.lean ====
section
/-! DEFINITION. The output ports as functions of the registers (R35 to R39, R192), and the tagged result they carry
(R27, R164). -/

namespace Sys2Proof.Machine

/-- A byte sequence as a port of `w` bits: byte `k` at bits `8k+7 : 8k` (R38, R39). -/
def portBits (w : Nat) (l : List Byte) : BitVec w := BitVec.ofNat w (leNat l)

/-- The output ports, each at its width (R35 to R39). -/
structure Outputs where
  reqReady : Bool
  txValid : Bool
  /-- no value outside `Writing` (R36; log entry 7) -/
  txData : Option Byte
  rxReady : Bool
  resValid : Bool
  resKind : BitVec 4
  resCode : Byte
  resCkOk : Bool
  resPreOk : Bool
  resAddr : Byte
  resRcmd : Byte
  resPayload : BitVec 176
  rawBytes : BitVec 168
  tmPresCurrent : BitVec 16
  tmPresVoltage : BitVec 32
  tmOutput : Bool
  tmHeat : Bool
  tmMode : BitVec 2
  tmStateRsvd : BitVec 3
  tmOperation : Bool
  tmCalibLow : Byte
  tmCalibHigh : Byte
  tmMaxVoltage : BitVec 32
  tmOutVoltage : BitVec 32
  tmReserved : BitVec 40
  idModel : BitVec 40
  idPatch : Byte
  idFwVersion : Byte
  idSerial : BitVec 80
  idReserved : BitVec 40
deriving DecidableEq, Repr

/-- The output ports (R192): functions of the registers, but that the four handshake outputs are 0 while `rst` is 1
(R230). The payload ports and the decoded views are wires of FB and always carry its bytes; when they may be used is
`State.result?` (R38, R39, R164). -/
def outputs (s : State) : Outputs :=
  let p := payloadOf s.fb.frame
  let t := telemetry p
  let i := identity p
  { reqReady := !s.ports.rst && decide (s.phase = .idle)
    txValid := !s.ports.rst && decide (s.phase = .writing)
    txData := if s.phase = .writing then s.fb.read? s.idx.toNat else none
    rxReady := !s.ports.rst && (decide (s.phase = .awaitingReply) || decide (s.phase = .reading))
    resValid := !s.ports.rst && s.phase.terminal
    resKind := s.resKind.code
    resCode := s.resCode
    resCkOk := s.ckOk
    resPreOk := s.preOk
    resAddr := s.fb.read 1
    resRcmd := s.fb.read 2
    resPayload := portBits 176 p
    rawBytes := portBits 168 (Machine.rawBytes p)
    tmPresCurrent := t.presCurrent
    tmPresVoltage := t.presVoltage
    tmOutput := t.output
    tmHeat := t.heat
    tmMode := t.mode
    tmStateRsvd := t.stateRsvd
    tmOperation := t.operation
    tmCalibLow := t.calibLow
    tmCalibHigh := t.calibHigh
    tmMaxVoltage := t.maxVoltage
    tmOutVoltage := t.outVoltage
    tmReserved := portBits 40 t.reserved
    idModel := portBits 40 i.model
    idPatch := i.patch
    idFwVersion := i.fwVersion
    idSerial := portBits 80 i.serial
    idReserved := portBits 40 i.reserved }

/-- The parsed fields of a reply that was fully received (R38, R202). -/
structure RawReply where
  address : Byte
  rcmd : Byte
  payload : List Byte
deriving DecidableEq, Repr

/-- The tagged result (R27, R164, D27): a record only in the variant it belongs to, and the parsed reply only where
26 reply bytes were stored (R38). -/
inductive Result where
  | okRaw (reply : RawReply) (raw : List Byte)
  | okTelemetry (reply : RawReply) (record : Telemetry)
  | okIdentity (reply : RawReply) (record : Identity)
  | errTransport (code : Byte)
  | errChecksum (reply : RawReply) (preambleOk : Bool)
  | errRejected (reply : RawReply) (status : Byte)
  | errUnknownStatus (reply : RawReply) (status : Byte)
  | errMalformed (reply : RawReply)
  | errBadRequest (cmd : Byte)
deriving DecidableEq, Repr

/-- The reply in the frame buffer, as its parsed fields. -/
def rawReply (s : State) : RawReply :=
  { address := s.fb.read 1, rcmd := s.fb.read 2, payload := payloadOf s.fb.frame }

/-- The result the caller may read, if there is one (R27, R28, R38, R164). -/
def State.result? (s : State) : Option Result :=
  let p := payloadOf s.fb.frame
  match s.resKind with
  | .none => none
  | .okRaw => some (.okRaw (rawReply s) (rawBytes p))
  | .okTelemetry => some (.okTelemetry (rawReply s) (telemetry p))
  | .okIdentity => some (.okIdentity (rawReply s) (identity p))
  | .errTransport => some (.errTransport s.resCode)
  | .errChecksum => some (.errChecksum (rawReply s) s.preOk)
  | .errRejected => some (.errRejected (rawReply s) s.resCode)
  | .errUnknownStatus => some (.errUnknownStatus (rawReply s) s.resCode)
  | .errMalformed => some (.errMalformed (rawReply s))
  | .errBadRequest => some (.errBadRequest s.resCode)

end Sys2Proof.Machine
end

