-- ==== Sys2Proof/Machine/Script.lean ====
section
/-! DEFINITION. The notation of the spec's test vectors as data (R84): a request line and a reply line, and the input
samples an always-ready environment drives for them, one per edge (log entry 13). -/

namespace Sys2Proof.Machine

/-- A request line `<command> [@<addr>] [<arg>]` (R84). -/
structure RequestLine where
  command : Command
  addr : Option Byte
  arg : Option Word
deriving DecidableEq, Repr

/-- The instruction of a request line: address 0 and no argument where they are absent (R84). The value on `req_arg`
of an absent argument is a don't-care; it is 0 in the spec's programs (95_test_vectors.md Part C). -/
def RequestLine.instr (l : RequestLine) : Instr :=
  l.command.instr (l.addr.getD 0) l.arg.isSome (l.arg.getD 0)

/-- A reply line (R84): 26 bytes, or a failure with a code after some bytes. -/
inductive ReplyLine where
  | frame (bytes : List Byte)
  | failAfter (code : Byte) (taken : List Byte)
deriving DecidableEq, Repr

/-- The ports with a request offered (R35). -/
def offer (cmd addr : Byte) (argValid : Bool) (arg : Word) : Inputs :=
  { Inputs.quiet with reqValid := true, reqCmd := cmd, reqAddr := addr, reqArgValid := argValid, reqArg := arg }

/-- The ports with the transport ready for a byte (R36). -/
def txReadyInput : Inputs := { Inputs.quiet with txReady := true }

/-- The ports with a received byte offered (R37). -/
def rxInput (b : Byte) : Inputs := { Inputs.quiet with rxValid := true, rxData := b }

/-- The ports with a read failure (R37). -/
def rxErrInput (code : Byte) : Inputs := { Inputs.quiet with rxErr := true, rxErrCode := code }

/-- The ports with the caller taking a result (R38). -/
def takeInput : Inputs := { Inputs.quiet with resReady := true }

/-- The samples of the receive edges of a reply line. -/
def ReplyLine.inputs : ReplyLine → List Inputs
  | .frame bytes => bytes.map rxInput
  | .failAfter code taken => taken.map rxInput ++ [rxErrInput code]

/-- The samples of the edges after ACCEPT, up to the result: one for ENCODE, 26 for TX, the reply, one for DECODE. -/
def exchangeInputs (r : ReplyLine) : List Inputs :=
  Inputs.quiet :: List.replicate Config.frameLen txReadyInput ++ r.inputs ++ [Inputs.quiet]

end Sys2Proof.Machine
end

