-- ==== Sys2Proof/Safety.lean ====
section
/-! DEFINITION. What claims are made in terms of: the state invariants of R30, the events of the exchange in progress
(R59, R191), the judgement a result rests on (R26, R188), the duties of the environment (R53, R234, R236), and runs. -/

namespace Sys2Proof.Machine

/-- `n` steps of the machine, stopping at a fault or a refusal. -/
def run : Nat → State → Host.Outcome State Fault Refusal
  | 0, s => .next s
  | n + 1, s =>
    match step s with
    | .next t => run n t
    | .fault r => .fault r
    | .refused r => .refused r

/-- R41's control values: what reset leaves, FB and the request latches being anything. -/
structure ControlReset (s : State) : Prop where
  phase : s.phase = .idle
  idx : s.idx = 0
  ckOk : s.ckOk = false
  preOk : s.preOk = false
  resKind : s.resKind = .none
  resCode : s.resCode = 0

/-- The success kinds (R27). -/
abbrev ResKind.isSuccess (k : ResKind) : Prop := k = .okRaw ∨ k = .okTelemetry ∨ k = .okIdentity

/-- The kinds of a protocol error (R27). -/
abbrev ResKind.isProtocol (k : ResKind) : Prop :=
  k = .errChecksum ∨ k = .errRejected ∨ k = .errUnknownStatus ∨ k = .errMalformed

/-- The state invariants of R30, (a) to (g). -/
structure R30 (s : State) : Prop where
  /-- (a) -/
  phaseRange : s.phase.code.toNat ≤ 9
  /-- (b) -/
  successKind : s.phase = .success ↔ s.resKind.isSuccess
  /-- (b) -/
  protocolKind : s.phase = .protocolError ↔ s.resKind.isProtocol
  /-- (b) -/
  transportKind : s.phase = .transportError ↔ s.resKind = .errTransport
  /-- (b) -/
  refusedKind : s.phase = .refused ↔ s.resKind = .errBadRequest
  /-- (b) -/
  noKind : s.phase.terminal = false → s.resKind = .none
  /-- (c) -/
  writingIdx : s.phase = .writing → s.idx.toNat ≤ 25
  /-- (c) -/
  readingIdx : s.phase = .reading → 1 ≤ s.idx.toNat ∧ s.idx.toNat ≤ 25
  /-- (c) -/
  otherIdx : s.phase ≠ .writing → s.phase ≠ .reading → s.idx = 0
  /-- (d) -/
  classDefined : s.phase ≠ .idle → s.phase ≠ .refused → replyClassOf s ≠ .U
  /-- (e) -/
  frameBuilt : s.phase = .writing → s.fb.frame = requestFrame s
  /-- (f) -/
  flagsClear : s.phase ≠ .success → s.phase ≠ .protocolError → s.ckOk = false ∧ s.preOk = false
  /-- (f) -/
  flagsSet : s.phase = .success → s.ckOk = true ∧ s.preOk = true
  /-- (g) -/
  noCode : s.resKind = .none → s.resCode = 0

/-- The invariant of the model: R30, the canonical form of the frame buffer, and R10's constraints on the instance of
`CMD_CODE`. -/
structure Inv (s : State) : Prop where
  rules : R30 s
  fbWf : s.fb.wf = true
  cmdCodeWf : s.cmdCode.wf = true

/-- The result rests on the frame received and the original command (R26, R150, R188): in `Success` and
`ProtocolError` the flags are those of the frame in FB, and kind and code are its judgement by the class of `CMDREG`. -/
def ResultIsJudgement (s : State) : Prop :=
  s.phase = .success ∨ s.phase = .protocolError →
    s.ckOk = verify s.fb.frame ∧ s.preOk = preambleValid s.fb.frame ∧
      judgement (replyClassOf s) s.fb.frame = some (s.resKind, s.resCode)

/-- Does this event end the exchange before it: a result taken, or a reset. -/
def Event.endsExchange : Event → Bool
  | .taken _ _ | .reset => true
  | .accepted _ _ _ _ | .txByte _ | .rxByte _ | .judged _ _ => false

/-- The events of the exchange in progress, oldest first. -/
def exchangeEvents (s : State) : List Event := (s.trace.takeWhile (fun e => !e.endsExchange)).reverse

/-- The accept event of the latched request. -/
def acceptedEvent (s : State) : Event := .accepted s.cmdreg s.addrreg s.argv s.argreg

/-- The events of an exchange, phase by phase (R59 (b), R183, R185, R191): accept, the request frame in index order,
then the reply in index order, then the judgement. -/
def EventsInOrder (s : State) : Prop :=
  match s.phase with
  | .idle => exchangeEvents s = []
  | .encoding => exchangeEvents s = [acceptedEvent s]
  | .writing =>
    exchangeEvents s = acceptedEvent s :: ((requestFrame s).take s.idx.toNat).map .txByte
  | .awaitingReply => exchangeEvents s = acceptedEvent s :: (requestFrame s).map .txByte
  | .reading =>
    exchangeEvents s = acceptedEvent s :: ((requestFrame s).map .txByte ++
      (s.fb.frame.take s.idx.toNat).map .rxByte)
  | .decoding =>
    exchangeEvents s = acceptedEvent s :: ((requestFrame s).map .txByte ++ s.fb.frame.map .rxByte)
  | .success | .protocolError =>
    exchangeEvents s = acceptedEvent s :: ((requestFrame s).map .txByte ++ s.fb.frame.map .rxByte ++
      [.judged s.resKind s.resCode])
  | .transportError =>
    (∃ n, n ≤ 25 ∧ exchangeEvents s = acceptedEvent s :: (((requestFrame s).take n).map .txByte ++
      [.judged s.resKind s.resCode])) ∨
    (∃ l : List Byte, l.length ≤ 25 ∧ exchangeEvents s = acceptedEvent s :: ((requestFrame s).map .txByte ++
      l.map .rxByte ++ [.judged s.resKind s.resCode]))
  | .refused => exchangeEvents s = [.judged s.resKind s.resCode]

/-- The registers of R20: two states that agree on them are the same block, whatever their environments. -/
structure SameBlock (s t : State) : Prop where
  fb : t.fb = s.fb
  cmdreg : t.cmdreg = s.cmdreg
  addrreg : t.addrreg = s.addrreg
  argreg : t.argreg = s.argreg
  argv : t.argv = s.argv
  idx : t.idx = s.idx
  phase : t.phase = s.phase
  ckOk : t.ckOk = s.ckOk
  preOk : t.preOk = s.preOk
  resKind : t.resKind = s.resKind
  resCode : t.resCode = s.resCode

/-- The inputs the block listens to in a phase (R208): the request in `Idle`, the transmit side in `Writing`, the
receive side in the two reading phases, `res_ready` in a terminal phase, and `rst` always. -/
def SameHeard (ph : Phase) (p q : Inputs) : Prop :=
  p.rst = q.rst ∧
  match ph with
  | .idle => p.reqValid = q.reqValid ∧ p.reqAddr = q.reqAddr ∧ p.reqCmd = q.reqCmd ∧
      p.reqArgValid = q.reqArgValid ∧ p.reqArg = q.reqArg
  | .encoding | .decoding => True
  | .writing => p.txReady = q.txReady ∧ p.txErr = q.txErr ∧ p.txErrCode = q.txErrCode
  | .awaitingReply | .reading => p.rxValid = q.rxValid ∧ p.rxData = q.rxData ∧ p.rxErr = q.rxErr ∧
      p.rxErrCode = q.rxErrCode
  | .success | .protocolError | .transportError | .refused => p.resReady = q.resReady

/-- The caller's and the transport's duty on the channels they drive with `valid` (R53, R234): an offer made while the
block is not ready stands unchanged at the next edge. DESIGN CHOICE (log entry 15): a byte offered with `rx_valid` and
`rx_ready` both 1 need not stand, even where `rx_err` is 1 too and so RXFAIL takes no byte (R187): R53 calls valid and
ready a transfer, and no rule says whether the transport must offer that byte again. DESIGN CHOICE (log entry 17): no
offered byte or request may be withdrawn otherwise, not by the drain or flush that R232 and R236 ask of the environment
and not across edges with `rst = 1`, where every `ready` is 0; no rule says which of R53 and R236 yields. No step reads
this predicate. -/
def HoldsOffers (s : State) (next : Inputs) : Prop :=
  (s.ports.reqValid = true → (outputs s).reqReady = false →
    next.reqValid = true ∧ next.reqAddr = s.ports.reqAddr ∧ next.reqCmd = s.ports.reqCmd ∧
      next.reqArgValid = s.ports.reqArgValid ∧ next.reqArg = s.ports.reqArg) ∧
  (s.ports.rxValid = true → (outputs s).rxReady = false →
    next.rxValid = true ∧ next.rxData = s.ports.rxData)

/-- The environment's duty at a request (R236), as far as a port shows it: when a request is accepted, which is where
`req_valid` and `req_ready` are both 1 (R35), so never at an edge with `rst = 1` (R230), the receive channel offers no
byte left from before. DESIGN CHOICE (log entry 16): R236 asks that the receive stream be empty then and hold exactly one
reply afterwards, and no port shows either; this says `rx_valid` is 0 at that edge, and nothing of bytes the transport
holds without offering them (R33 (b)) nor of what comes later. No step reads this predicate. -/
def LinkQuietAtAccept (s : State) : Prop :=
  s.ports.reqValid = true → (outputs s).reqReady = true → s.ports.rxValid = false

/-- A sample in which the transport takes a byte (R183). -/
def Inputs.takesByte (p : Inputs) : Prop := p.rst = false ∧ p.txErr = false ∧ p.txReady = true

/-- A sample in which the transport offers the byte `b` (R185). -/
def Inputs.offersByte (p : Inputs) (b : Byte) : Prop :=
  p.rst = false ∧ p.rxErr = false ∧ p.rxValid = true ∧ p.rxData = b

/-- A schedule of samples that carries one exchange from the edge after ACCEPT to its result with this reply: one edge
for ENCODE, 26 in which the transport takes a byte, 26 that offer the reply's bytes, one for DECODE (R120, R244). -/
def CarriesExchange (reply : List Byte) (pending : List Inputs) : Prop :=
  ∃ enc dec : Inputs, ∃ txs rxs : List Inputs,
    pending = enc :: (txs ++ rxs ++ [dec]) ∧ enc.rst = false ∧ dec.rst = false ∧
    txs.length = Config.frameLen ∧ (∀ p ∈ txs, p.takesByte) ∧
    List.Forall₂ Inputs.offersByte rxs reply

/-- How many steps the exchange in progress still takes at most to `Idle` (R193, R244): 55 after ACCEPT. -/
def stepsLeft (s : State) : Nat :=
  match s.phase with
  | .idle => 0
  | .encoding => 55
  | .writing => 54 - s.idx.toNat
  | .awaitingReply => 28
  | .reading => 28 - s.idx.toNat
  | .decoding => 2
  | .success | .protocolError | .transportError | .refused => 1

/-- The environment lets the exchange move at this edge (R190): the transport takes a byte or fails, offers a byte or
fails, the caller takes the result. -/
def Cooperates (s : State) : Prop :=
  match s.phase with
  | .idle | .encoding | .decoding => True
  | .writing => s.ports.txReady = true ∨ s.ports.txErr = true
  | .awaitingReply | .reading => s.ports.rxValid = true ∨ s.ports.rxErr = true
  | .success | .protocolError | .transportError | .refused => s.ports.resReady = true

end Sys2Proof.Machine
end

