-- ==== Sys2Proof/Certificates/Slice0/Obligations.lean ====
section
/-! DEFINITION. The statements for the provers: the codec, the decoder, the records, the meaning of each instruction
at every phase of its exchange, reset, and the invariants of every step. A state is any state: the instance of
`CMD_CODE`, the ports and what the environment does next are universally quantified in each. -/

set_option autoImplicit false

open Sys2Proof Sys2Proof.Machine

/-! ### The codec (40_frame_codec.md) -/

/-- R101: the checksum is the running 8-bit sum from 0, the order of the bytes does not matter, and the unreduced sum
is at most 6375. -/
def Obligations.ChecksumIsRunningSum : Prop :=
  ∀ f : List Byte, f.length = 26 →
    cksum f = (f.take 25).foldl (fun acc b => acc + b) 0 ∧
    (∀ g : List Byte, (g.take 25).Perm (f.take 25) → cksum g = cksum f) ∧
    ((f.take 25).map BitVec.toNat).sum ≤ 6375

/-- R102: the layout ENCODE builds, for every operand triple, and that it is injective. -/
def Obligations.EncodeFrameLayout : Prop :=
  (∀ (a c : Byte) (p : List Byte), p.length = 22 →
    ∃ f, encodeFrame a c p = some f ∧ f.length = 26 ∧ byteAt f 0 = 0xAA ∧ byteAt f 1 = a ∧ byteAt f 2 = c ∧
      (∀ k, k < 22 → byteAt f (3 + k) = byteAt p k) ∧ byteAt f 25 = sum8 (f.take 25)) ∧
  (∀ (a c a' c' : Byte) (p p' f f' : List Byte),
    encodeFrame a c p = some f → encodeFrame a' c' p' = some f' →
    (∀ i, 1 ≤ i → i ≤ 24 → byteAt f i = byteAt f' i) → a = a' ∧ c = c' ∧ p = p')

/-- R110: a payload list is refused exactly when its length is not 22, and PACKARG yields exactly 22 bytes. -/
def Obligations.WrongPayloadLengthRefused : Prop :=
  (∀ (a c : Byte) (p : List Byte), encodeFrame a c p = none ↔ p.length ≠ 22) ∧
  (∀ (v : Bool) (x : Word), (packArg v x).length = 22)

/-- R108: DECODE of ENCODE gives the operands back with both flags true; and on a valid frame with a good preamble
ENCODE of DECODE's parts gives the frame back. -/
def Obligations.FrameRoundTrip : Prop :=
  (∀ (a c : Byte) (p : List Byte), p.length = 22 →
    ∃ f, encodeFrame a c p = some f ∧
      decodeFrame f = some { address := a, rcmd := c, payload := p, checksumValid := true,
                             preambleValid := true }) ∧
  (∀ f : List Byte, f.length = 26 → verify f = true → byteAt f 0 = 0xAA →
    encodeFrame (byteAt f 1) (byteAt f 2) (payloadOf f) = some f)

/-- R109: what the checksum detects (any single bit of bytes 0 to 24, any change of byte 25 alone) and what it does
not (two bytes exchanged, two cancelling changes, a byte and the checksum moved together). -/
def Obligations.ChecksumSensitivity : Prop :=
  ∀ f : List Byte, f.length = 26 → verify f = true →
    (∀ i j, i < 25 → j < 8 → verify (f.set i (byteAt f i ^^^ BitVec.ofNat 8 (2 ^ j))) = false) ∧
    (∀ b : Byte, b ≠ byteAt f 25 → verify (f.set 25 b) = false) ∧
    (∀ i k, i < 25 → k < 25 → verify ((f.set i (byteAt f k)).set k (byteAt f i)) = true) ∧
    (∀ i k (d : Byte), i < 25 → k < 25 → i ≠ k →
      verify ((f.set i (byteAt f i + d)).set k (byteAt f k - d)) = true) ∧
    (∀ i (d : Byte), i < 25 → verify ((f.set i (byteAt f i + d)).set 25 (byteAt f 25 + d)) = true)

/-- R106: an argument is packed little-endian into payload bytes 0 to 3 with 18 zeros behind it, no argument is 22
zeros, so an absent argument and an argument of zero are one payload. -/
def Obligations.ArgumentPacking : Prop :=
  ∀ x : Word,
    packArg true x = [x.extractLsb' 0 8, x.extractLsb' 8 8, x.extractLsb' 16 8, x.extractLsb' 24 8] ++
      List.replicate 18 0 ∧
    packArg false x = List.replicate 22 0 ∧ packArg true 0 = packArg false x

/-- R107: UNPACKARG is the little-endian reading of payload bytes 0 to 3, and the inverse of PACKARG. -/
def Obligations.ArgumentRoundTrip : Prop :=
  (∀ p : List Byte, p.length = 22 →
    (unpackArg p).toNat = (byteAt p 0).toNat + 256 * (byteAt p 1).toNat + 65536 * (byteAt p 2).toNat +
      16777216 * (byteAt p 3).toNat) ∧
  (∀ x : Word, unpackArg (packArg true x) = x)

/-- R124's worked example under every instance of `CMD_CODE` that meets R10: SetOutputVoltage at address 0 with 5000
is AA 00 23 88 13, 20 zeros, 68 (90_conflicts.md C1). -/
def Obligations.SetVoltageExampleFrame : Prop :=
  ∀ cc : CmdCode, cc.wf = true →
    commandFrame cc .setOutputVoltage 0 true 5000 =
      [0xAA, 0x00, 0x23, 0x88, 0x13] ++ List.replicate 20 0 ++ [0x68]

/-! ### The frame buffer (20_memory.md) -/

/-- R54: MemRead is the little-endian number of `n` buffer bytes; MemWrite writes the `n` little-endian bytes and no
other; LE16 and LE32 of the payload window are MemRead at 3 + o; past the end neither gives a result. -/
def Obligations.MemReadMemWriteLittleEndian : Prop :=
  (∀ (m : Memory) (a n : Nat), 1 ≤ n → a + n ≤ 26 →
    memRead m a n = some (∑ k ∈ Finset.range n, 256 ^ k * (m.read (a + k)).toNat)) ∧
  (∀ (m : Memory) (a n v : Nat), m.wf = true → 1 ≤ n → a + n ≤ 26 →
    ∃ m', memWrite m a n v = some m' ∧ (∀ k, k < n → m'.read (a + k) = BitVec.ofNat 8 (v / 256 ^ k)) ∧
      (∀ c, c < a ∨ a + n ≤ c → m'.read c = m.read c)) ∧
  (∀ (m : Memory) (o : Nat), o + 2 ≤ 22 → memRead m (3 + o) 2 = some (LE16 (payloadOf m.frame) o).toNat) ∧
  (∀ (m : Memory) (o : Nat), o + 4 ≤ 22 → memRead m (3 + o) 4 = some (LE32 (payloadOf m.frame) o).toNat) ∧
  (∀ (m : Memory) (a n v : Nat), 26 < a + n → memRead m a n = none ∧ memWrite m a n v = none)

/-- Every step keeps the frame buffer in its canonical form, from every state whose buffer has it. -/
def Obligations.StepKeepsBufferCanonical : Prop :=
  ∀ s t : State, s.fb.wf = true → step s = .next t → t.fb.wf = true

/-! ### The decoder (30_encoding.md) -/

/-- R80: the dispatch decoder, for every instance of `CMD_CODE` that meets R10. -/
def Obligations.DispatchDecoderClasses : Prop :=
  ∀ (cc : CmdCode) (b : Byte), cc.wf = true →
    (classOf cc b = .T ↔ b = cc.code .read) ∧
    (classOf cc b = .I ↔ b = cc.code .readProductInfo) ∧
    (classOf cc b = .S ↔ ∃ k : Command, k ≠ .read ∧ k ≠ .readProductInfo ∧ b = cc.code k) ∧
    (classOf cc b = .U ↔ ∀ k : Command, b ≠ cc.code k)

/-- Decoding the encoding of any well-formed instruction gives it back, on its channel, with every operand at every
value. The byte layout of the request channel is the model's choice (log entry 6). -/
def Obligations.DecodeOfEncode : Prop :=
  ∀ (cc : CmdCode) (i : Instr), cc.wf = true → i.wf = true → decode cc i.channel (encode cc i) = .ok i

/-- What decodes is well formed, stands on that channel, and encodes to the very bytes it was read from: no two byte
strings are one instruction. The byte layout of the request channel is the model's choice (log entry 6). -/
def Obligations.EncodeOfDecode : Prop :=
  ∀ (cc : CmdCode) (ch : Channel) (bs : List Byte) (i : Instr), decode cc ch bs = .ok i →
    i.wf = true ∧ i.channel = ch ∧ encode cc i = bs

/-- A few written-out words decode to their instructions: SetOutputVoltage @5 0x04030201 (its code 0x23 is the
document's), and the replies 0x80 and 0x81 with zeros behind them. -/
def Obligations.WrittenWordsDecode : Prop :=
  (∀ cc : CmdCode, cc.wf = true →
    decode cc .request [0x23, 0x05, 0x01, 0x02, 0x03, 0x04, 0x01] = .ok (.setOutputVoltage 5 true 0x04030201)) ∧
  (∀ cc : CmdCode, decode cc .reply (0x80 :: List.replicate 21 0) =
    .ok (.statusCommandSuccessful (List.replicate 21 0))) ∧
  (∀ cc : CmdCode, decode cc .reply (0x81 :: List.replicate 21 0) =
    .ok (.statusUnknown 0x81 (List.replicate 21 0)))

/-! ### Reply decoding (42_reply_decode.md) -/

/-- R151 and R158: every value of payload byte 0 has one class, the five named values exactly theirs: one value gives
OK_RAW, four ERR_REJECTED, 251 ERR_UNKNOWN_STATUS, and the code is the byte. -/
def Obligations.StatusClassification : Prop :=
  (∀ p : List Byte, (statusResult p).2 = byteAt p 0 ∧
    ((statusResult p).1 = .okRaw ↔ byteAt p 0 = 0x80) ∧
    ((statusResult p).1 = .errRejected ↔ byteAt p 0 ∈ [(0x90 : Byte), 0xA0, 0xB0, 0xC0]) ∧
    ((statusResult p).1 = .errUnknownStatus ↔ byteAt p 0 ∉ [(0x80 : Byte), 0x90, 0xA0, 0xB0, 0xC0])) ∧
  (∀ b : Byte, (Status.ofByte b = .commandSuccessful ↔ b = 0x80) ∧
    (Status.ofByte b = .checksumIncorrect ↔ b = 0x90) ∧ (Status.ofByte b = .parameterIncorrect ↔ b = 0xA0) ∧
    (Status.ofByte b = .unrecognizedCommand ↔ b = 0xB0) ∧ (Status.ofByte b = .invalidCommand ↔ b = 0xC0) ∧
    (Status.ofByte b = .unknown ↔ b ∉ [(0x80 : Byte), 0x90, 0xA0, 0xB0, 0xC0]))

/-- R160 and R161: each telemetry field is the little-endian number of its own payload bytes, and each state field its
own bits of byte 6. -/
def Obligations.TelemetryFields : Prop :=
  ∀ p : List Byte, p.length = 22 →
    (telemetry p).presCurrent.toNat = (byteAt p 0).toNat + 256 * (byteAt p 1).toNat ∧
    (telemetry p).presVoltage.toNat = (byteAt p 2).toNat + 256 * (byteAt p 3).toNat +
      65536 * (byteAt p 4).toNat + 16777216 * (byteAt p 5).toNat ∧
    (telemetry p).state = byteAt p 6 ∧
    (telemetry p).calibLow = byteAt p 7 ∧ (telemetry p).calibHigh = byteAt p 8 ∧
    (telemetry p).maxVoltage.toNat = (byteAt p 9).toNat + 256 * (byteAt p 10).toNat +
      65536 * (byteAt p 11).toNat + 16777216 * (byteAt p 12).toNat ∧
    (telemetry p).outVoltage.toNat = (byteAt p 13).toNat + 256 * (byteAt p 14).toNat +
      65536 * (byteAt p 15).toNat + 16777216 * (byteAt p 16).toNat ∧
    (telemetry p).reserved = [byteAt p 17, byteAt p 18, byteAt p 19, byteAt p 20, byteAt p 21] ∧
    ((telemetry p).output = true ↔ (byteAt p 6).toNat % 2 = 1) ∧
    ((telemetry p).heat = true ↔ (byteAt p 6).toNat / 2 % 2 = 1) ∧
    (telemetry p).mode.toNat = (byteAt p 6).toNat / 4 % 4 ∧
    (telemetry p).stateRsvd.toNat = (byteAt p 6).toNat / 16 % 8 ∧
    ((telemetry p).operation = true ↔ (byteAt p 6).toNat / 128 = 1)

/-- R163: each identity field is its own payload bytes, in payload order and at full width. -/
def Obligations.IdentityFields : Prop :=
  ∀ p : List Byte, p.length = 22 →
    (identity p).model = [byteAt p 0, byteAt p 1, byteAt p 2, byteAt p 3, byteAt p 4] ∧
    (identity p).patch = byteAt p 5 ∧ (identity p).fwVersion = byteAt p 6 ∧
    (identity p).serial = [byteAt p 7, byteAt p 8, byteAt p 9, byteAt p 10, byteAt p 11, byteAt p 12, byteAt p 13,
      byteAt p 14, byteAt p 15, byteAt p 16] ∧
    (identity p).reserved = [byteAt p 17, byteAt p 18, byteAt p 19, byteAt p 20, byteAt p 21]

/-! ### The output ports (10_state.md R35 to R39, 43_exchange_fsm.md R192) -/

/-- R192: outside reset the handshake outputs and the result outputs are these functions of the registers; payload
byte `k` stands at bits `8k+7 : 8k` of `res_payload` (R38). That `res_addr`, `res_rcmd` and `res_payload` are wires of FB
for the result kinds 0, 4 and 9 too, where R38 leaves them unspecified, is the model's reading (log entry 7, DEDUCED). -/
def Obligations.OutputsShowRegisters : Prop :=
  ∀ s : State, s.ports.rst = false →
    ((outputs s).reqReady = true ↔ s.phase = .idle) ∧
    ((outputs s).txValid = true ↔ s.phase = .writing) ∧
    ((outputs s).txValid = true → s.idx.toNat ≤ 25 → (outputs s).txData = some (s.fb.read s.idx.toNat)) ∧
    ((outputs s).rxReady = true ↔ s.phase = .awaitingReply ∨ s.phase = .reading) ∧
    ((outputs s).resValid = true ↔ 6 ≤ s.phase.code.toNat) ∧
    (outputs s).resKind = s.resKind.code ∧ (outputs s).resCode = s.resCode ∧
    (outputs s).resCkOk = s.ckOk ∧ (outputs s).resPreOk = s.preOk ∧
    (outputs s).resAddr = s.fb.read 1 ∧ (outputs s).resRcmd = s.fb.read 2 ∧
    (∀ k, k < 22 → (outputs s).resPayload.extractLsb' (8 * k) 8 = s.fb.read (3 + k))

/-- R39: each decoded view carries its own bytes of the frame buffer, each at its own bits, in every phase. -/
def Obligations.ViewPortsCarryTheirBytes : Prop :=
  ∀ s : State,
    (∀ k, k < 21 → (outputs s).rawBytes.extractLsb' (8 * k) 8 = s.fb.read (4 + k)) ∧
    (∀ k, k < 2 → (outputs s).tmPresCurrent.extractLsb' (8 * k) 8 = s.fb.read (3 + k)) ∧
    (∀ k, k < 4 → (outputs s).tmPresVoltage.extractLsb' (8 * k) 8 = s.fb.read (5 + k)) ∧
    (outputs s).tmOutput = (s.fb.read 9).getLsbD 0 ∧ (outputs s).tmHeat = (s.fb.read 9).getLsbD 1 ∧
    (outputs s).tmMode = (s.fb.read 9).extractLsb' 2 2 ∧
    (outputs s).tmStateRsvd = (s.fb.read 9).extractLsb' 4 3 ∧
    (outputs s).tmOperation = (s.fb.read 9).getLsbD 7 ∧
    (outputs s).tmCalibLow = s.fb.read 10 ∧ (outputs s).tmCalibHigh = s.fb.read 11 ∧
    (∀ k, k < 4 → (outputs s).tmMaxVoltage.extractLsb' (8 * k) 8 = s.fb.read (12 + k)) ∧
    (∀ k, k < 4 → (outputs s).tmOutVoltage.extractLsb' (8 * k) 8 = s.fb.read (16 + k)) ∧
    (∀ k, k < 5 → (outputs s).tmReserved.extractLsb' (8 * k) 8 = s.fb.read (20 + k)) ∧
    (∀ k, k < 5 → (outputs s).idModel.extractLsb' (8 * k) 8 = s.fb.read (3 + k)) ∧
    (outputs s).idPatch = s.fb.read 8 ∧ (outputs s).idFwVersion = s.fb.read 9 ∧
    (∀ k, k < 10 → (outputs s).idSerial.extractLsb' (8 * k) 8 = s.fb.read (10 + k)) ∧
    (∀ k, k < 5 → (outputs s).idReserved.extractLsb' (8 * k) 8 = s.fb.read (20 + k))

/-! ### Reset -/

/-- R41: the control values at reset, and the outputs right after it. -/
def Obligations.ResetControlValues : Prop :=
  ControlReset State.reset ∧
    (outputs State.reset).reqReady = true ∧ (outputs State.reset).txValid = false ∧
    (outputs State.reset).rxReady = false ∧ (outputs State.reset).resValid = false ∧
    (outputs State.reset).resKind = 0 ∧ (outputs State.reset).resCode = 0 ∧
    (outputs State.reset).resCkOk = false ∧ (outputs State.reset).resPreOk = false

/-- R230: with `rst = 1` the step, in whatever phase, leaves the control values of R41 and sends and consumes nothing;
and the four handshake outputs are 0 while `rst` is 1. -/
def Obligations.ResetEdgeFromAnyPhase : Prop :=
  ∀ s : State, s.ports.rst = true →
    (∃ t, step s = .next t ∧ ControlReset t ∧ t.txStream = s.txStream ∧ t.rxTaken = s.rxTaken ∧
      t.cmdCode = s.cmdCode) ∧
    (outputs s).reqReady = false ∧ (outputs s).txValid = false ∧ (outputs s).rxReady = false ∧
    (outputs s).resValid = false

/-! ### A step runs the decoded instruction -/

/-- When the request the block meets (on the ports in `Idle`, in the latches while its exchange is in progress)
decodes to an instruction, the step is `exec` of it and then the next sample of the input ports. -/
def Obligations.StepRunsDecodedRequest : Prop :=
  ∀ (s : State) (i : Instr), s.ports.rst = false →
    ((s.phase = .idle ∧ s.ports.reqValid = true ∧ decode s.cmdCode .request (portRequest s.ports) = .ok i) ∨
     (s.phase ≠ .idle ∧ s.phase ≠ .refused ∧ decode s.cmdCode .request (latchedRequest s) = .ok i)) →
    (∀ t, exec i s = .next t → step s = .next (nextInputs t)) ∧
    (∀ r, exec i s = .fault r → step s = .fault r) ∧
    (∀ r, exec i s = .refused r → step s = .refused r)

/-- When the block judges a class S reply with good checksum and good preamble, the payload decodes to a status row
and the step is `exec` of that row and then the next sample of the input ports (R151, R188). -/
def Obligations.StepRunsDecodedStatusRow : Prop :=
  ∀ s : State, s.ports.rst = false → s.phase = .decoding → replyClassOf s = .S →
    verify s.fb.frame = true → preambleValid s.fb.frame = true →
    ∃ i t, decode s.cmdCode .reply (payloadOf s.fb.frame) = .ok i ∧ exec i s = .next t ∧
      step s = .next (nextInputs t)

/-! ### The 19 commands, phase by phase (R120, R181 to R189) -/

/-- R181: ACCEPT, both branches, for every request on the ports: an undefined command byte is refused and nothing is
latched; any other is latched. That a refusal sets IDX to 0 is R210's, R181's list does not name IDX: the model's
reading (log entry 12, DEDUCED), which changes nothing where IDX is 0 in `Idle` (R30 (c)). -/
def Obligations.AcceptStep : Prop :=
  ∀ s : State, s.ports.rst = false → s.phase = .idle → s.ports.reqValid = true →
    (classOf s.cmdCode s.ports.reqCmd = .U →
      step s = .next (nextInputs { s with
        resKind := .errBadRequest, resCode := s.ports.reqCmd, idx := 0, phase := .refused,
        trace := .judged .errBadRequest s.ports.reqCmd :: s.trace })) ∧
    (classOf s.cmdCode s.ports.reqCmd ≠ .U →
      step s = .next (nextInputs { s with
        cmdreg := s.ports.reqCmd, addrreg := s.ports.reqAddr, argv := s.ports.reqArgValid,
        argreg := s.ports.reqArg, phase := .encoding,
        trace := .accepted s.ports.reqCmd s.ports.reqAddr s.ports.reqArgValid s.ports.reqArg :: s.trace }))

/-- Each of the 19 commands, requested in `Idle`, is accepted: its code and operands are latched, the phase is
`Encoding`, nothing else changes. -/
def Obligations.CommandAccepted : Prop :=
  ∀ (c : Command) (a : Byte) (v : Bool) (x : Word) (s : State), s.phase = .idle →
    exec (c.instr a v x) s = .next { s with
      cmdreg := s.cmdCode.code c, addrreg := a, argv := v, argreg := x, phase := .encoding,
      trace := .accepted (s.cmdCode.code c) a v x :: s.trace }

/-- Each of the 19 commands, in `Encoding` with its request in the latches, writes its request frame
`ENCODE(addr, CMD_CODE(c), PACKARG(arg_valid, arg))` into FB, all 26 bytes, and goes to `Writing` at byte 0; nothing
else changes. -/
def Obligations.CommandBuildsFrame : Prop :=
  ∀ (c : Command) (a : Byte) (v : Bool) (x : Word) (s : State), s.phase = .encoding → s.fb.wf = true →
    holdsRequest (s.cmdCode.code c) a v x s = true →
    ∃ t, exec (c.instr a v x) s = .next t ∧
      encodeFrame a (s.cmdCode.code c) (packArg v x) = some t.fb.frame ∧
      (∀ k, 26 ≤ k → t.fb.read k = s.fb.read k) ∧
      t = { s with fb := t.fb, idx := 0, phase := .writing }

/-- Each of the 19 commands, in `Writing` with the transport ready and not failing, hands over FB[IDX]: the byte is
appended to the transmit stream, IDX moves on, byte 25 ends the phase; FB and every other register keep their value. -/
def Obligations.CommandSendsByte : Prop :=
  ∀ (c : Command) (a : Byte) (v : Bool) (x : Word) (s : State), s.phase = .writing → s.idx.toNat ≤ 25 →
    s.ports.txErr = false → s.ports.txReady = true → holdsRequest (s.cmdCode.code c) a v x s = true →
    ∃ t, exec (c.instr a v x) s = .next t ∧
      t = { s with
        idx := if s.idx.toNat = 25 then 0 else s.idx + 1,
        phase := if s.idx.toNat = 25 then .awaitingReply else .writing,
        trace := .txByte (s.fb.read s.idx.toNat) :: s.trace } ∧
      t.txStream = s.txStream ++ [s.fb.read s.idx.toNat]

/-- Each of the 19 commands, in `AwaitingReply` or `Reading` with a byte offered and no failure, stores it at FB[IDX]:
that byte of FB changes and no other, IDX moves on, the phase is `Reading`, or `Decoding` after byte 25. -/
def Obligations.CommandStoresReplyByte : Prop :=
  ∀ (c : Command) (a : Byte) (v : Bool) (x : Word) (s : State),
    (s.phase = .awaitingReply ∨ s.phase = .reading) → s.idx.toNat ≤ 25 → s.fb.wf = true →
    s.ports.rxErr = false → s.ports.rxValid = true → holdsRequest (s.cmdCode.code c) a v x s = true →
    ∃ t, exec (c.instr a v x) s = .next t ∧
      t.fb.read s.idx.toNat = s.ports.rxData ∧ (∀ k, k ≠ s.idx.toNat → t.fb.read k = s.fb.read k) ∧
      t = { s with
        fb := t.fb,
        idx := if s.idx.toNat = 25 then 0 else s.idx + 1,
        phase := if s.idx.toNat = 25 then .decoding else .reading,
        trace := .rxByte s.ports.rxData :: s.trace } ∧
      t.rxTaken = s.rxTaken ++ [s.ports.rxData]

/-- R184 and R187: a transport failure wins over a byte. Each of the 19 commands raises TransportError with the failing
channel's code, hands over and takes no byte, and changes nothing but RES_KIND, RES_CODE, IDX and PHASE. -/
def Obligations.CommandTransportFailure : Prop :=
  ∀ (c : Command) (a : Byte) (v : Bool) (x : Word) (s : State),
    holdsRequest (s.cmdCode.code c) a v x s = true →
    (s.phase = .writing → s.ports.txErr = true →
      exec (c.instr a v x) s = .next { s with
        resKind := .errTransport, resCode := s.ports.txErrCode, idx := 0, phase := .transportError,
        trace := .judged .errTransport s.ports.txErrCode :: s.trace }) ∧
    (s.phase = .awaitingReply ∨ s.phase = .reading → s.ports.rxErr = true →
      exec (c.instr a v x) s = .next { s with
        resKind := .errTransport, resCode := s.ports.rxErrCode, idx := 0, phase := .transportError,
        trace := .judged .errTransport s.ports.rxErrCode :: s.trace })

/-- The blocking waits (R183, R185, R189, R190): with neither readiness nor failure, and with the result not taken,
each of the 19 commands leaves the whole state as it is; so does a request that waits behind another exchange
(the model's reading, log entry 11). -/
def Obligations.CommandWaits : Prop :=
  ∀ (c : Command) (a : Byte) (v : Bool) (x : Word) (s : State),
    (s.phase = .writing → s.ports.txErr = false → s.ports.txReady = false →
      exec (c.instr a v x) s = .next s) ∧
    (s.phase = .awaitingReply ∨ s.phase = .reading → s.ports.rxErr = false → s.ports.rxValid = false →
      exec (c.instr a v x) s = .next s) ∧
    (s.phase.terminal = true → s.ports.resReady = false → exec (c.instr a v x) s = .next s) ∧
    (s.phase ≠ .idle → holdsRequest (s.cmdCode.code c) a v x s = false → exec (c.instr a v x) s = .next s)

/-- R202, R205, R209: in `Decoding`, for each of the 19 commands, a bad checksum is ERR_CHECKSUM whatever the preamble,
and a good checksum with a bad preamble is ERR_MALFORMED whatever the payload; both flags are recorded and nothing
else changes but RES_KIND, RES_CODE, IDX and PHASE. -/
def Obligations.CommandJudgesBadFrame : Prop :=
  ∀ (c : Command) (a : Byte) (v : Bool) (x : Word) (s : State), s.phase = .decoding →
    holdsRequest (s.cmdCode.code c) a v x s = true →
    (verify s.fb.frame = false →
      exec (c.instr a v x) s = .next { s with
        ckOk := false, preOk := preambleValid s.fb.frame, resKind := .errChecksum, resCode := 0, idx := 0,
        phase := .protocolError, trace := .judged .errChecksum 0 :: s.trace }) ∧
    (verify s.fb.frame = true → s.fb.read 0 ≠ 0xAA →
      exec (c.instr a v x) s = .next { s with
        ckOk := true, preOk := false, resKind := .errMalformed, resCode := 0, idx := 0,
        phase := .protocolError, trace := .judged .errMalformed 0 :: s.trace })

/-- R151, R188: in `Decoding`, each of the 17 commands of class S takes a good reply by payload byte 0: 0x80 is OK_RAW
in `Success`; 0x90, 0xA0, 0xB0, 0xC0 are ERR_REJECTED and every other byte ERR_UNKNOWN_STATUS in `ProtocolError`; the
code is the byte; FB and the latches keep their values. -/
def Obligations.StatusCommandTakesReply : Prop :=
  ∀ (c : Command) (a : Byte) (v : Bool) (x : Word) (s : State), s.cmdCode.wf = true →
    c ≠ .read → c ≠ .readProductInfo → s.phase = .decoding →
    holdsRequest (s.cmdCode.code c) a v x s = true →
    verify s.fb.frame = true → s.fb.read 0 = 0xAA →
    ∃ t, exec (c.instr a v x) s = .next t ∧
      t = { s with
        ckOk := true, preOk := true, resKind := t.resKind, resCode := s.fb.read 3, idx := t.idx,
        phase := if s.fb.read 3 = 0x80 then .success else .protocolError,
        trace := .judged t.resKind (s.fb.read 3) :: s.trace } ∧
      t.idx = (if s.fb.read 3 = 0x80 then s.idx else 0) ∧
      t.resKind = (if s.fb.read 3 = 0x80 then .okRaw
        else if s.fb.read 3 ∈ [(0x90 : Byte), 0xA0, 0xB0, 0xC0] then .errRejected else .errUnknownStatus)

/-- R127, R160, R188: in `Decoding`, Read takes every good reply as telemetry, whatever its bytes: OK_TELEMETRY, code
0x00, phase `Success`, and the result is the record of the payload. -/
def Obligations.ReadDeliversTelemetry : Prop :=
  ∀ (a : Byte) (v : Bool) (x : Word) (s : State), s.cmdCode.wf = true → s.phase = .decoding →
    holdsRequest (s.cmdCode.code .read) a v x s = true →
    verify s.fb.frame = true → s.fb.read 0 = 0xAA →
    ∃ t, exec (.read a v x) s = .next t ∧
      t = { s with
        ckOk := true, preOk := true, resKind := .okTelemetry, resCode := 0, phase := .success,
        trace := .judged .okTelemetry 0 :: s.trace } ∧
      t.result? = some (.okTelemetry (rawReply s) (telemetry (payloadOf s.fb.frame)))

/-- R137, R163, R188: in `Decoding`, ReadProductInfo takes every good reply as an identity record: OK_IDENTITY, code
0x00, phase `Success`, and the result is the record of the payload. -/
def Obligations.ReadProductInfoDeliversIdentity : Prop :=
  ∀ (a : Byte) (v : Bool) (x : Word) (s : State), s.cmdCode.wf = true → s.phase = .decoding →
    holdsRequest (s.cmdCode.code .readProductInfo) a v x s = true →
    verify s.fb.frame = true → s.fb.read 0 = 0xAA →
    ∃ t, exec (.readProductInfo a v x) s = .next t ∧
      t = { s with
        ckOk := true, preOk := true, resKind := .okIdentity, resCode := 0, phase := .success,
        trace := .judged .okIdentity 0 :: s.trace } ∧
      t.result? = some (.okIdentity (rawReply s) (identity (payloadOf s.fb.frame)))

/-- R189, R212: each of the 19 commands ends by ACK: in a terminal phase of its exchange, with `res_ready`, the result
and both flags are cleared and the block is idle; FB and the latches keep their values. -/
def Obligations.CommandReturns : Prop :=
  ∀ (c : Command) (a : Byte) (v : Bool) (x : Word) (s : State),
    (s.phase = .success ∨ s.phase = .protocolError ∨ s.phase = .transportError) → s.ports.resReady = true →
    holdsRequest (s.cmdCode.code c) a v x s = true →
    exec (c.instr a v x) s = .next { s with
      resKind := .none, resCode := 0, ckOk := false, preOk := false, phase := .idle,
      trace := .taken s.resKind s.resCode :: s.trace }

/-- The frame of the 19 commands: whatever a command's edge does when it gives a next state, the instance of
`CMD_CODE` and the environment's fields stay; the latches change in `Idle` only; FB changes in `Encoding` (all 26
bytes) and in the two reading phases (byte IDX only); the flags change in `Decoding` and at ACK only; RES_KIND and
RES_CODE do not change in `Idle` and `Encoding`; and at most one event is added. That `exec` of a
command is one edge of its exchange is the model's reading (log entry 11). -/
def Obligations.CommandFrame : Prop :=
  ∀ (c : Command) (a : Byte) (v : Bool) (x : Word) (s t : State), exec (c.instr a v x) s = .next t →
    t.cmdCode = s.cmdCode ∧ t.ports = s.ports ∧ t.pending = s.pending ∧ t.freeCount = s.freeCount ∧
    (s.phase ≠ .idle →
      t.cmdreg = s.cmdreg ∧ t.addrreg = s.addrreg ∧ t.argv = s.argv ∧ t.argreg = s.argreg) ∧
    (∀ k, s.phase ≠ .encoding → ((s.phase = .awaitingReply ∨ s.phase = .reading) → k ≠ s.idx.toNat) →
      t.fb.read k = s.fb.read k) ∧
    (s.phase ≠ .decoding → s.phase.terminal = false → t.ckOk = s.ckOk ∧ t.preOk = s.preOk) ∧
    (s.phase = .idle ∨ s.phase = .encoding → t.resKind = s.resKind ∧ t.resCode = s.resCode) ∧
    (t.trace = s.trace ∨ ∃ e, t.trace = e :: s.trace)

/-! ### The six status rows (R152 to R157) -/

/-- R152: status 0x80 on a class S reply that is good and holds these raw bytes: (OK_RAW, 0x80), phase `Success`, both
flags set; the result carries the 21 raw bytes and `raw_bytes` presents them in order; nothing else changes.
Flags and phase are DECODE's (R188), the tagged result R164's; that `exec` of the row is that DECODE edge is the model's
reading (log entry 11, DEDUCED). -/
def Obligations.StatusSuccessfulRow : Prop :=
  ∀ (raw : List Byte) (s : State), holdsReply 0x80 raw s = true →
    ∃ t, exec (.statusCommandSuccessful raw) s = .next t ∧
      t = { s with
        ckOk := true, preOk := true, resKind := .okRaw, resCode := 0x80, phase := .success,
        trace := .judged .okRaw 0x80 :: s.trace } ∧
      t.result? = some (.okRaw (rawReply s) raw) ∧
      (∀ k, k < 21 → (outputs t).rawBytes.extractLsb' (8 * k) 8 = raw.getD k 0)

/-- R153 to R156: statuses 0x90, 0xA0, 0xB0, 0xC0 are each (ERR_REJECTED, the byte), phase `ProtocolError`, both flags
set, whatever the raw bytes; nothing else changes.
Flags and phase are DECODE's (R188, R207), IDX the error entry's (R210); that `exec` of the row is that DECODE edge is the
model's reading (log entry 11, DEDUCED). -/
def Obligations.StatusRejectionRows : Prop :=
  ∀ (raw : List Byte) (s : State),
    let rejected (b : Byte) : State := { s with
      ckOk := true, preOk := true, resKind := .errRejected, resCode := b, idx := 0, phase := .protocolError,
      trace := .judged .errRejected b :: s.trace }
    (holdsReply 0x90 raw s = true → exec (.statusChecksumIncorrect raw) s = .next (rejected 0x90)) ∧
    (holdsReply 0xA0 raw s = true → exec (.statusParameterIncorrect raw) s = .next (rejected 0xA0)) ∧
    (holdsReply 0xB0 raw s = true → exec (.statusUnrecognizedCommand raw) s = .next (rejected 0xB0)) ∧
    (holdsReply 0xC0 raw s = true → exec (.statusInvalidCommand raw) s = .next (rejected 0xC0))

/-- R157: every other status byte is (ERR_UNKNOWN_STATUS, the byte), phase `ProtocolError`, both flags set; nothing
else changes. Flags and phase are DECODE's (R188, R207), IDX the error entry's (R210); that `exec` of the row
is that DECODE edge is the model's reading (log entry 11, DEDUCED). -/
def Obligations.StatusUnknownRow : Prop :=
  ∀ (st : Byte) (raw : List Byte) (s : State), holdsReply st raw s = true →
    st ∉ [(0x80 : Byte), 0x90, 0xA0, 0xB0, 0xC0] →
    exec (.statusUnknown st raw) s = .next { s with
      ckOk := true, preOk := true, resKind := .errUnknownStatus, resCode := st, idx := 0,
      phase := .protocolError, trace := .judged .errUnknownStatus st :: s.trace }

/-- The frame of the six status rows: whatever a row does when it gives a next state, FB, the latches, the instance of
`CMD_CODE` and the environment's fields stay. That `exec` of a row is the DECODE edge is the
model's reading (log entry 11). -/
def Obligations.StatusRowFrame : Prop :=
  ∀ (i : Instr) (s t : State), i.channel = .reply → exec i s = .next t →
    t.fb = s.fb ∧ t.cmdreg = s.cmdreg ∧ t.addrreg = s.addrreg ∧ t.argv = s.argv ∧ t.argreg = s.argreg ∧
    t.cmdCode = s.cmdCode ∧ t.ports = s.ports ∧ t.pending = s.pending ∧ t.freeCount = s.freeCount ∧
    (t = s ∨ (s.phase = .decoding ∧ t.ckOk = true ∧ t.preOk = true ∧
      (t.phase = .success ∨ t.phase = .protocolError)))

/-! ### The operations (R140 to R145) -/

/-- R140 to R145: each of the six operations, from `Idle`, accepts its command at address 0 and the next edge builds
its request frame; and offered on the ports with a transport that takes 26 bytes, it sends exactly that frame: 28 steps
later (ACCEPT, ENCODE, 26 TX) the transmit stream has grown by its 26 bytes in order and the block awaits the reply. The
four set operations carry their argument, the two reads none, whatever stands on `req_arg`. That a step is one edge with
one sample of the ports is the model's reading (log entries 3 and 14). -/
def Obligations.OperationsSendTheirFrames : Prop :=
  ∀ (s : State) (x : Word) (op : Operation), s.phase = .idle → s.fb.wf = true →
    let frame : List Byte := match op with
      | .setRemoteMode a => commandFrame s.cmdCode .setRemoteMode 0 true a
      | .setOutputPower a => commandFrame s.cmdCode .setOutputPower 0 true a
      | .setOutputVoltage a => commandFrame s.cmdCode .setOutputVoltage 0 true a
      | .setOutputCurrent a => commandFrame s.cmdCode .setOutputCurrent 0 true a
      | .readState => commandFrame s.cmdCode .read 0 false 0
      | .readProductInfo => commandFrame s.cmdCode .readProductInfo 0 false 0
    (∃ t u, exec (op.expand x) s = .next t ∧ exec (op.expand x) t = .next u ∧ u.phase = .writing ∧
      u.fb.frame = frame) ∧
    (∀ (enc : Inputs) (txs rest : List Inputs), s.ports.rst = false → s.ports.reqValid = true →
      decode s.cmdCode .request (portRequest s.ports) = .ok (op.expand x) →
      s.pending = enc :: (txs ++ rest) → enc.rst = false → txs.length = 26 → (∀ p ∈ txs, p.takesByte) →
      ∃ t, run 28 s = .next t ∧ t.phase = .awaitingReply ∧ t.txStream = s.txStream ++ frame)

/-! ### Invariants and whole-machine rules -/

/-- R30 holds wherever the control registers have their reset values, whatever FB and the request latches hold. -/
def Obligations.ControlResetHasR30 : Prop := ∀ s : State, ControlReset s → R30 s

/-- The model's invariant holds at reset. It covers R30 and, beside it, the canonical form of FB and R10's constraints
on the instance of `CMD_CODE`, which at reset is the model's choice (log entry 2). -/
def Obligations.ResetHasInv : Prop := Inv State.reset

/-- R30: the invariants (a) to (g), with the canonical form of FB and R10's constraints, are kept by every step. -/
def Obligations.StepKeepsInv : Prop :=
  ∀ s t : State, Inv s → step s = .next t → Inv t

/-- Under the invariant no step stops: every edge, with any inputs, has a next state. -/
def Obligations.InvNeverStops : Prop := ∀ s : State, Inv s → ∃ t, step s = .next t

/-- R193: every change of (PHASE, IDX), row by row of the table; where no row's guard holds both keep their values. -/
def Obligations.ControlTransferTable : Prop :=
  ∀ s : State, Inv s → s.ports.rst = false →
    ∃ t, step s = .next t ∧
      (match s.phase with
       | .idle =>
         t.idx = 0 ∧ t.phase = (if s.ports.reqValid = true then
           (if classOf s.cmdCode s.ports.reqCmd = .U then .refused else .encoding) else .idle)
       | .encoding => t.phase = .writing ∧ t.idx = 0
       | .writing =>
         if s.ports.txErr = true then t.phase = .transportError ∧ t.idx = 0
         else if s.ports.txReady = true then
           (s.idx.toNat < 25 → t.phase = .writing ∧ t.idx.toNat = s.idx.toNat + 1) ∧
           (s.idx.toNat = 25 → t.phase = .awaitingReply ∧ t.idx = 0)
         else t.phase = .writing ∧ t.idx = s.idx
       | .awaitingReply =>
         if s.ports.rxErr = true then t.phase = .transportError ∧ t.idx = 0
         else if s.ports.rxValid = true then t.phase = .reading ∧ t.idx = 1
         else t.phase = .awaitingReply ∧ t.idx = 0
       | .reading =>
         if s.ports.rxErr = true then t.phase = .transportError ∧ t.idx = 0
         else if s.ports.rxValid = true then
           (s.idx.toNat < 25 → t.phase = .reading ∧ t.idx.toNat = s.idx.toNat + 1) ∧
           (s.idx.toNat = 25 → t.phase = .decoding ∧ t.idx = 0)
         else t.phase = .reading ∧ t.idx = s.idx
       | .decoding => (t.phase = .success ∨ t.phase = .protocolError) ∧ t.idx = 0
       | .success | .protocolError | .transportError | .refused =>
         t.idx = 0 ∧ t.phase = (if s.ports.resReady = true then .idle else s.phase))

/-- The result rests on the reply received and on the original command: in `Success` and `ProtocolError`, both flags
are those of the frame in FB, and RES_KIND and RES_CODE are its judgement by the class of CMDREG. Kept by every step. -/
def Obligations.StepKeepsResultIsJudgement : Prop :=
  ∀ s t : State, ResultIsJudgement s → step s = .next t → ResultIsJudgement t

/-- R59 (b), R191: the events of an exchange come in their order (accept, the 26 request bytes in index order, the 26
reply bytes in index order, the judgement), with no byte sent or taken besides. Kept by every step. -/
def Obligations.StepKeepsEventsInOrder : Prop :=
  ∀ s t : State, Inv s → EventsInOrder s → step s = .next t → EventsInOrder t

/-- No exchange is in progress at reset and no result is shown. The trace is the model's own field (log entry 4). -/
def Obligations.ResetHasNoExchange : Prop :=
  EventsInOrder State.reset ∧ ResultIsJudgement State.reset ∧ State.reset.result? = none

/-- R120 and R181 to R189 agree: a request on the ports in `Idle`, with an environment that takes the 26 bytes and
offers the 26 bytes of any reply, ends 55 steps later with the result of R120: the request frame sent in order, the
reply taken in order, flags, kind and code by the judgement of the reply for the command's class.
The count of 55 steps rests on the model's reading that a step is one edge, and the schedule on its samples of the ports
(log entries 3 and 14). -/
def Obligations.ExchangeDeliversRequestResult : Prop :=
  ∀ (c : Command) (a : Byte) (v : Bool) (x : Word) (reply : List Byte) (s : State),
    s.fb.wf = true → s.cmdCode.wf = true → s.phase = .idle → s.ports.rst = false → s.ports.reqValid = true →
    s.ports.reqCmd = s.cmdCode.code c → s.ports.reqAddr = a → s.ports.reqArgValid = v → s.ports.reqArg = x →
    reply.length = 26 → CarriesExchange reply s.pending →
    ∃ t, run 55 s = .next t ∧
      t.txStream = s.txStream ++ commandFrame s.cmdCode c a v x ∧ t.rxTaken = s.rxTaken ++ reply ∧
      t.fb.frame = reply ∧ t.ckOk = verify reply ∧ t.preOk = preambleValid reply ∧
      judgement c.replyClass reply = some (t.resKind, t.resCode) ∧
      (t.phase = .success ∨ t.phase = .protocolError) ∧ (t.phase = .success ↔ t.resKind.isSuccess) ∧
      t.cmdreg = s.cmdCode.code c ∧ t.addrreg = a ∧ t.argv = v ∧ t.argreg = x

/-- Every edge at which the environment lets the exchange move brings it nearer to `Idle`: at most 55 such edges after
ACCEPT (R190, R244). -/
def Obligations.ExchangeProgresses : Prop :=
  ∀ s t : State, Inv s → s.ports.rst = false → s.phase ≠ .idle → Cooperates s → step s = .next t →
    stepsLeft t < stepsLeft s ∧ stepsLeft t ≤ 54

/-- R190, program C5: with a transport that is silent for ever the block waits for ever, its whole state unchanged. Ports
that hold their levels when no sample is left are the model's (log entry 3). -/
def Obligations.SilentTransportBlocksForever : Prop :=
  ∀ (n : Nat) (s : State), s.pending = [] → s.ports.rst = false →
    ((s.phase = .writing ∧ s.ports.txReady = false ∧ s.ports.txErr = false) ∨
     ((s.phase = .awaitingReply ∨ s.phase = .reading) ∧ s.ports.rxValid = false ∧ s.ports.rxErr = false)) →
    run n s = .next s

/-- R208, R63: the block hears only the inputs of its phase. Two blocks with equal registers, equal configuration and
equal heard inputs have equal registers and equal configuration after a step, whatever the other ports carry and
whatever comes later, so the statement applies again at the next step. At an edge with `rst = 1` the spec gives FB and
the latches no value (R41, R42, R230): that they are equal there is the model's choice, whose free values are a function
of the reset counter (log entry 5, DESIGN CHOICE), and it is why the two counters `freeCount` are assumed equal. -/
def Obligations.OnlyHeardInputsMatter : Prop :=
  ∀ s s' t : State, SameBlock s s' → s'.cmdCode = s.cmdCode → s'.freeCount = s.freeCount →
    SameHeard s.phase s.ports s'.ports → step s = .next t → ∃ t', step s' = .next t' ∧ SameBlock t t' ∧
      t'.cmdCode = t.cmdCode ∧ t'.freeCount = t.freeCount

/-- R22, R63: outside reset the request latches change only by ACCEPT of a defined command in `Idle`, and the instance
of `CMD_CODE` never changes. -/
def Obligations.LatchesWrittenOnlyByAccept : Prop :=
  ∀ s t : State, step s = .next t →
    t.cmdCode = s.cmdCode ∧
    (s.ports.rst = false →
      ¬ (s.phase = .idle ∧ s.ports.reqValid = true ∧ classOf s.cmdCode s.ports.reqCmd ≠ .U) →
      t.cmdreg = s.cmdreg ∧ t.addrreg = s.addrreg ∧ t.argv = s.argv ∧ t.argreg = s.argreg)

/-- R21, R65: outside reset FB is written by ENCODE, and by RX at byte IDX only; no step writes it in a terminal
phase, in `Idle`, in `Writing` or in `Decoding`. -/
def Obligations.BufferWrittenOnlyByEncodeAndRx : Prop :=
  ∀ s t : State, step s = .next t → s.ports.rst = false → s.phase ≠ .encoding →
    ∀ k, ((s.phase = .awaitingReply ∨ s.phase = .reading) → s.ports.rxErr = false → s.ports.rxValid = true →
      k ≠ s.idx.toNat) → t.fb.read k = s.fb.read k

/-- R26: outside reset the flags change only at DECODE and at ACK. -/
def Obligations.FlagsWrittenOnlyByDecodeAndAck : Prop :=
  ∀ s t : State, step s = .next t → s.ports.rst = false → s.phase ≠ .decoding →
    ¬ (s.phase.terminal = true ∧ s.ports.resReady = true) → t.ckOk = s.ckOk ∧ t.preOk = s.preOk

/-- R189, R162: a result not taken is held: every register keeps its value, so the result ports do. -/
def Obligations.ResultHeldUntilTaken : Prop :=
  ∀ s : State, s.phase.terminal = true → s.ports.rst = false → s.ports.resReady = false →
    ∃ t, step s = .next t ∧ SameBlock s t ∧ t.result? = s.result? ∧ t.trace = s.trace

/-- R53, the block's side: a byte offered on the transmit channel and not taken, the transport not failing, is offered
unchanged at the next edge; a result offered and not taken is offered unchanged, all of R38's result channel and every
other output port with it, unless reset comes. For kinds 0, 4 and 9, where R38 leaves `res_addr`, `res_rcmd` and
`res_payload` unspecified, that these are wires of FB is the model's reading (log entry 7, DEDUCED). -/
def Obligations.BlockHoldsItsOffers : Prop :=
  ∀ s t : State, step s = .next t → t.ports.rst = false →
    ((outputs s).txValid = true → s.ports.txReady = false → s.ports.txErr = false →
      (outputs t).txValid = true ∧ (outputs t).txData = (outputs s).txData) ∧
    ((outputs s).resValid = true → s.ports.resReady = false →
      (outputs t).resValid = true ∧ (outputs t).resKind = (outputs s).resKind ∧
        (outputs t).resCode = (outputs s).resCode ∧ (outputs t).resCkOk = (outputs s).resCkOk ∧
        (outputs t).resPreOk = (outputs s).resPreOk ∧ (outputs t).resAddr = (outputs s).resAddr ∧
        (outputs t).resRcmd = (outputs s).resRcmd ∧ (outputs t).resPayload = (outputs s).resPayload ∧
        outputs t = outputs s)

/-- R52, R65: the transmit stream grows only by FB[IDX] at a TX step, the receive stream is consumed only at an RX
step, by the byte on `rx_data`; every other step leaves both streams alone. -/
def Obligations.StreamsMoveOnlyByTxAndRx : Prop :=
  ∀ s t : State, step s = .next t →
    t.txStream = s.txStream ++ (if s.ports.rst = false ∧ s.phase = .writing ∧ s.ports.txErr = false ∧
      s.ports.txReady = true then [s.fb.read s.idx.toNat] else []) ∧
    t.rxTaken = s.rxTaken ++ (if s.ports.rst = false ∧ (s.phase = .awaitingReply ∨ s.phase = .reading) ∧
      s.ports.rxErr = false ∧ s.ports.rxValid = true then [s.ports.rxData] else [])

/-- R150, R239: the reply's address and byte 2 take no part. Two blocks about to judge replies that differ there (and
in the checksum that covers them) but agree in the payload, both frames good, record the same kind and code. -/
def Obligations.ReplyAddressAndCommandByteIgnored : Prop :=
  ∀ s s' t t' : State, s.ports.rst = false → s'.ports.rst = false → s.phase = .decoding → s'.phase = .decoding →
    s'.cmdreg = s.cmdreg → s'.cmdCode = s.cmdCode →
    (∀ k, 3 ≤ k → k ≤ 24 → s'.fb.read k = s.fb.read k) →
    verify s.fb.frame = true → verify s'.fb.frame = true → s.fb.read 0 = 0xAA → s'.fb.read 0 = 0xAA →
    step s = .next t → step s' = .next t' →
    t'.resKind = t.resKind ∧ t'.resCode = t.resCode ∧ t'.phase = t.phase
end

