-- ==== Sys2Proof/Laws/Bytes.lean ====
section
/-! SUPPORT. Byte sequences: lengths, little-endian assembly and its inverse, the sum modulo 256. -/

namespace Sys2Proof.Machine

@[simp] theorem leBytes_length (n v : Nat) : (leBytes n v).length = n := by
  induction n generalizing v with
  | zero => rfl
  | succ n ih => simp [leBytes, ih]

@[simp] theorem le32_length (x : Word) : (le32 x).length = 4 := leBytes_length 4 _

@[simp] theorem zeros_length (n : Nat) : (zeros n).length = n := List.length_replicate

theorem leNat_append (a b : List Byte) : leNat (a ++ b) = leNat a + 256 ^ a.length * leNat b := by
  induction a with
  | nil => simp [leNat]
  | cons x a ih => simp only [List.cons_append, leNat, ih, List.length_cons, pow_succ]; ring

theorem leNat_lt (l : List Byte) : leNat l < 256 ^ l.length := by
  induction l with
  | nil => simp [leNat]
  | cons b l ih =>
    have hb := b.isLt
    simp only [leNat, List.length_cons, pow_succ]
    omega

/-- Assembling the `n` low bytes of a number gives the number modulo `256 ^ n`. -/
theorem leNat_leBytes (n v : Nat) : leNat (leBytes n v) = v % 256 ^ n := by
  induction n generalizing v with
  | zero => simp [leBytes, leNat, Nat.mod_one]
  | succ n ih =>
    rw [leBytes, leNat, ih, BitVec.toNat_ofNat, show 2 ^ 8 = 256 from rfl, Nat.pow_succ' (n := n), Nat.mod_mul]

/-- Taking apart an assembled number gives its bytes back. -/
theorem leBytes_leNat (l : List Byte) : leBytes l.length (leNat l) = l := by
  induction l with
  | nil => rfl
  | cons b l ih =>
    have hb := b.isLt
    simp only [List.length_cons, leBytes, leNat]
    congr 1
    · apply BitVec.eq_of_toNat_eq
      simp only [BitVec.toNat_ofNat]
      omega
    · rw [show (b.toNat + 256 * leNat l) / 256 = leNat l by omega, ih]

@[simp] theorem leNat_le32 (x : Word) : leNat (le32 x) = x.toNat := by
  have h := x.isLt
  rw [le32, leNat_leBytes]
  exact Nat.mod_eq_of_lt (by omega)

theorem bytesAt_length {s : List Byte} {o n : Nat} (h : o + n ≤ s.length) : (bytesAt s o n).length = n := by
  simp [bytesAt]; omega

/-- Slicing out the middle of three parts. -/
theorem bytesAt_append {a b c : List Byte} {o n : Nat} (ho : a.length = o) (hn : b.length = n) :
    bytesAt (a ++ (b ++ c)) o n = b := by
  subst ho hn; simp [bytesAt]

theorem sum8_append (a b : List Byte) : sum8 (a ++ b) = sum8 a + sum8 b := by
  apply BitVec.eq_of_toNat_eq
  simp [sum8, Nat.add_mod]

@[simp] theorem sum8_nil : sum8 [] = 0 := rfl

theorem sum8_cons (b : Byte) (l : List Byte) : sum8 (b :: l) = b + sum8 l := by
  apply BitVec.eq_of_toNat_eq
  simp [sum8, Nat.add_mod]

/-- Changing one byte changes the sum by the difference. -/
theorem sum8_set {l : List Byte} {i : Nat} (hi : i < l.length) (b : Byte) :
    sum8 (l.set i b) = sum8 l + (b - l.getD i 0) := by
  induction l generalizing i with
  | nil => simp at hi
  | cons x l ih =>
    cases i with
    | zero =>
      simp only [List.set_cons_zero, sum8_cons, List.getD_cons_zero]
      rw [add_comm x (sum8 l), add_assoc, add_sub_cancel, add_comm]
    | succ i =>
      simp only [List.length_cons] at hi
      rw [List.set_cons_succ, sum8_cons, sum8_cons, List.getD_cons_succ, ih (i := i) (by omega), add_assoc]

end Sys2Proof.Machine
end

