-- ==== Sys2Proof/Laws/Memory.lean ====
section
/-! SUPPORT. The frame buffer: every operation keeps the canonical form, a read after a write gives the value written,
a write leaves every other byte alone, and equal contents are equal data. -/

namespace Sys2Proof.Machine

theorem Memory.wfFrom_cons {lo k : Nat} {v : Byte} {m : Memory} :
    Memory.wfFrom lo ((k, v) :: m) = true ↔
      lo ≤ k ∧ k < 26 ∧ v ≠ Memory.unlisted ∧ Memory.wfFrom (k + 1) m = true := by
  simp [Memory.wfFrom, and_assoc]

@[simp] theorem Memory.wf_nil : Memory.wf [] = true := rfl

theorem Memory.wfFrom_mono {lo lo' : Nat} {m : Memory} (h : Memory.wfFrom lo m = true) (hl : lo' ≤ lo) :
    Memory.wfFrom lo' m = true := by
  cases m with
  | nil => rfl
  | cons c m =>
    obtain ⟨k, v⟩ := c
    rw [Memory.wfFrom_cons] at h ⊢
    exact ⟨hl.trans h.1, h.2⟩

/-- Below the first listed index, a canonical buffer reads as unlisted. -/
theorem Memory.read_below {lo a : Nat} {m : Memory} (h : Memory.wfFrom lo m = true) (ha : a < lo) :
    m.read a = Memory.unlisted := by
  induction m generalizing lo with
  | nil => rfl
  | cons c m ih =>
    obtain ⟨k, v⟩ := c
    rw [Memory.wfFrom_cons] at h
    have hk : k ≠ a := by omega
    simp only [Memory.read, hk, if_false]
    exact ih h.2.2.2 (by omega)

/-- Beyond the buffer's end, a canonical buffer reads as unlisted. -/
theorem Memory.read_beyond {lo a : Nat} {m : Memory} (h : Memory.wfFrom lo m = true) (ha : 26 ≤ a) :
    m.read a = Memory.unlisted := by
  induction m generalizing lo with
  | nil => rfl
  | cons c m ih =>
    obtain ⟨k, v⟩ := c
    rw [Memory.wfFrom_cons] at h
    have hk : k ≠ a := by omega
    simp only [Memory.read, hk, if_false]
    exact ih h.2.2.2

theorem Memory.read_entry_other {a c : Nat} (b : Byte) (m : Memory) (h : a ≠ c) :
    (Memory.entry a b m).read c = m.read c := by
  unfold Memory.entry; split
  · rfl
  · simp [Memory.read, h]

/-- A write leaves every other byte alone. -/
theorem Memory.read_write_other {a c : Nat} (b : Byte) (m : Memory) (h : a ≠ c) :
    (m.write a b).read c = m.read c := by
  induction m with
  | nil => exact Memory.read_entry_other b [] h
  | cons e m ih =>
    obtain ⟨k, v⟩ := e
    unfold Memory.write
    split
    · exact Memory.read_entry_other b _ h
    · split
      · next hk => rw [Memory.read_entry_other b m h]; simp [Memory.read, ← hk, h]
      · simp only [Memory.read]; split <;> [rfl; exact ih]

theorem Memory.read_entry_same {lo a : Nat} (b : Byte) {m : Memory} (hm : Memory.wfFrom lo m = true)
    (h : a < lo) : (Memory.entry a b m).read a = b := by
  unfold Memory.entry; split
  · next hb => rw [Memory.read_below hm h, hb]
  · simp [Memory.read]

/-- A read after a write to the same place gives the value written. -/
theorem Memory.read_write_same {lo a : Nat} (b : Byte) {m : Memory} (hm : Memory.wfFrom lo m = true) :
    (m.write a b).read a = b := by
  induction m generalizing lo with
  | nil => exact Memory.read_entry_same (lo := a + 1) b rfl (by omega)
  | cons e m ih =>
    obtain ⟨k, v⟩ := e
    have hc := Memory.wfFrom_cons.mp hm
    unfold Memory.write
    split
    · next hk =>
      exact Memory.read_entry_same (lo := a + 1) b
        (Memory.wfFrom_cons.mpr ⟨by omega, hc.2.1, hc.2.2.1, hc.2.2.2⟩) (by omega)
    · split
      · next hk => subst hk; exact Memory.read_entry_same b hc.2.2.2 (by omega)
      · next hk => simp only [Memory.read, Ne.symm hk, if_false]; exact ih hc.2.2.2

theorem Memory.entry_wfFrom {lo a : Nat} (b : Byte) {m : Memory} (hm : Memory.wfFrom (a + 1) m = true)
    (hl : lo ≤ a) (ha : a < 26) : Memory.wfFrom lo (Memory.entry a b m) = true := by
  unfold Memory.entry; split
  · exact Memory.wfFrom_mono hm (by omega)
  · next hb => exact Memory.wfFrom_cons.mpr ⟨hl, ha, hb, hm⟩

theorem Memory.write_wfFrom {lo a : Nat} (b : Byte) {m : Memory} (hm : Memory.wfFrom lo m = true)
    (hl : lo ≤ a) (ha : a < 26) : Memory.wfFrom lo (m.write a b) = true := by
  induction m generalizing lo with
  | nil => exact Memory.entry_wfFrom b rfl hl ha
  | cons e m ih =>
    obtain ⟨k, v⟩ := e
    have hc := Memory.wfFrom_cons.mp hm
    unfold Memory.write
    split
    · exact Memory.entry_wfFrom b
        (Memory.wfFrom_cons.mpr ⟨by omega, hc.2.1, hc.2.2.1, hc.2.2.2⟩) hl ha
    · split
      · next hk => subst hk; exact Memory.entry_wfFrom b hc.2.2.2 hl ha
      · exact Memory.wfFrom_cons.mpr ⟨hc.1, hc.2.1, hc.2.2.1, ih hc.2.2.2 (by omega)⟩

/-- A write inside the buffer keeps the canonical form. -/
theorem Memory.write_wf {a : Nat} (b : Byte) {m : Memory} (hm : m.wf = true) (ha : a < 26) :
    (m.write a b).wf = true :=
  Memory.write_wfFrom b hm (Nat.zero_le a) ha

/-- Storing consecutive bytes inside the buffer keeps the canonical form. -/
theorem Memory.store_wf {m : Memory} {a : Nat} {l : List Byte} (hm : m.wf = true) (ha : a + l.length ≤ 26) :
    (m.store a l).wf = true := by
  induction l generalizing m a with
  | nil => exact hm
  | cons b l ih =>
    simp only [List.length_cons] at ha
    exact ih (Memory.write_wf b hm (by omega)) (by omega)

/-- A store leaves every byte outside it alone. -/
theorem Memory.read_store_outside {m : Memory} {a c : Nat} {l : List Byte}
    (h : c < a ∨ a + l.length ≤ c) : (m.store a l).read c = m.read c := by
  induction l generalizing m a with
  | nil => rfl
  | cons b l ih =>
    simp only [List.length_cons] at h
    rw [Memory.store, ih (by omega), Memory.read_write_other b m (by omega)]

/-- A read inside a store gives the byte stored there. -/
theorem Memory.read_store_inside {m : Memory} {a k : Nat} {l : List Byte} (hm : m.wf = true)
    (ha : a + l.length ≤ 26) (hk : k < l.length) : (m.store a l).read (a + k) = l.getD k 0 := by
  induction l generalizing m a k with
  | nil => simp at hk
  | cons b l ih =>
    simp only [List.length_cons] at ha hk
    rw [Memory.store]
    cases k with
    | zero =>
      rw [Memory.read_store_outside (by omega), Nat.add_zero, Memory.read_write_same b hm]
      rfl
    | succ k =>
      have h := ih (m := m.write a b) (a := a + 1) (k := k) (Memory.write_wf b hm (by omega))
        (by omega) (by omega)
      rw [show a + 1 + k = a + (k + 1) by omega] at h
      rw [h]; rfl

@[simp] theorem Memory.load_length (m : Memory) (a n : Nat) : (m.load a n).length = n := by
  induction n generalizing a with
  | zero => rfl
  | succ n ih => simp [Memory.load, ih]

@[simp] theorem Memory.frame_length (m : Memory) : m.frame.length = 26 := Memory.load_length m 0 26

theorem Memory.load_getD (m : Memory) (a : Nat) {n k : Nat} (hk : k < n) (d : Byte) :
    (m.load a n).getD k d = m.read (a + k) := by
  induction n generalizing a k with
  | zero => omega
  | succ n ih =>
    cases k with
    | zero => rfl
    | succ k =>
      have h := ih (a + 1) (k := k) (by omega)
      rw [show a + 1 + k = a + (k + 1) by omega] at h
      simpa [Memory.load] using h

/-- Byte `k` of the frame is buffer byte `k`. -/
theorem Memory.frame_getD (m : Memory) {k : Nat} (hk : k < 26) (d : Byte) : m.frame.getD k d = m.read k := by
  have h := Memory.load_getD m 0 (n := 26) hk d
  rwa [Nat.zero_add] at h

theorem Memory.frame_getElem (m : Memory) {k : Nat} (hk : k < m.frame.length) :
    m.frame[k] = m.read k := by
  have h := Memory.frame_getD m (k := k) (by simpa using hk) 0
  rwa [List.getD_eq_getElem _ _ hk] at h

/-- After storing 26 bytes the frame is those bytes. -/
theorem Memory.frame_store {m : Memory} {l : List Byte} (hm : m.wf = true) (hl : l.length = 26) :
    (m.store 0 l).frame = l := by
  apply List.ext_getElem (by simp [hl])
  intro k h1 h2
  rw [Memory.frame_getElem]
  have h := Memory.read_store_inside (m := m) (a := 0) (k := k) (l := l) hm (by omega) h2
  rw [Nat.zero_add] at h
  rw [h, List.getD_eq_getElem _ _ h2]

/-- After one write the frame differs in that byte only. -/
theorem Memory.frame_write {m : Memory} {a : Nat} (b : Byte) (hm : m.wf = true) :
    (m.write a b).frame = m.frame.set a b := by
  apply List.ext_getElem (by simp)
  intro k h1 h2
  rw [Memory.frame_getElem, List.getElem_set]
  split
  · next h => subst h; exact Memory.read_write_same b hm
  · next h => rw [Memory.read_write_other b m h, Memory.frame_getElem]

/-- Equal contents are equal data: two canonical buffers that read alike are one list. -/
theorem Memory.ext_of_wfFrom {lo : Nat} {m n : Memory} (hm : Memory.wfFrom lo m = true)
    (hn : Memory.wfFrom lo n = true) (h : ∀ a, m.read a = n.read a) : m = n := by
  induction m generalizing lo n with
  | nil =>
    cases n with
    | nil => rfl
    | cons e n =>
      obtain ⟨k, v⟩ := e
      have hc := Memory.wfFrom_cons.mp hn
      have := h k
      simp only [Memory.read, if_true] at this
      exact absurd this.symm hc.2.2.1
  | cons e m ih =>
    obtain ⟨k, v⟩ := e
    have hc := Memory.wfFrom_cons.mp hm
    cases n with
    | nil =>
      have := h k
      simp only [Memory.read, if_true] at this
      exact absurd this hc.2.2.1
    | cons e' n =>
      obtain ⟨k', v'⟩ := e'
      have hc' := Memory.wfFrom_cons.mp hn
      have hkk : k = k' := by
        rcases Nat.lt_trichotomy k k' with hlt | heq | hgt
        · have h1 := h k
          rw [Memory.read_below (lo := k + 1) (Memory.wfFrom_cons.mpr
            ⟨by omega, hc'.2⟩) (by omega)] at h1
          simp only [Memory.read, if_true] at h1
          exact absurd h1 hc.2.2.1
        · exact heq
        · have h1 := h k'
          rw [Memory.read_below (lo := k' + 1) (Memory.wfFrom_cons.mpr
            ⟨by omega, hc.2⟩) (by omega)] at h1
          simp only [Memory.read, if_true] at h1
          exact absurd h1.symm hc'.2.2.1
      subst hkk
      have hv : v = v' := by simpa [Memory.read] using h k
      subst hv
      have : m = n := by
        apply ih hc.2.2.2 hc'.2.2.2
        intro a
        by_cases ha : k = a
        · subst ha
          rw [Memory.read_below hc.2.2.2 (by omega), Memory.read_below hc'.2.2.2 (by omega)]
        · have h1 := h a
          simpa [Memory.read, ha] using h1
      rw [this]

/-- Equal contents are equal data. -/
theorem Memory.ext_of_wf {m n : Memory} (hm : m.wf = true) (hn : n.wf = true)
    (h : ∀ a, m.read a = n.read a) : m = n :=
  Memory.ext_of_wfFrom hm hn h

/-! ### The checked accesses -/

theorem Memory.read?_of_lt {m : Memory} {a : Nat} (h : a < 26) : m.read? a = some (m.read a) := by
  simp [Memory.read?, h]

theorem Memory.read?_cases {m : Memory} {a : Nat} {b : Byte} (h : m.read? a = some b) :
    a < 26 ∧ b = m.read a := by
  unfold Memory.read? at h
  split at h
  · next ha => exact ⟨ha, by simpa using h.symm⟩
  · cases h

theorem Memory.write?_of_lt {m : Memory} {a : Nat} (b : Byte) (h : a < 26) :
    m.write? a b = some (m.write a b) := by
  simp [Memory.write?, h]

theorem Memory.write?_cases {m n : Memory} {a : Nat} {b : Byte} (h : m.write? a b = some n) :
    a < 26 ∧ n = m.write a b := by
  unfold Memory.write? at h
  split at h
  · next ha => exact ⟨ha, by simpa using h.symm⟩
  · cases h

/-- The buffer at reset has the canonical form. -/
theorem State.reset_fb_wf : State.reset.fb.wf = true := rfl

/-- `MemWrite` keeps the canonical form. -/
theorem memWrite_wf {m n : Memory} {a k v : Nat} (hm : m.wf = true) (h : memWrite m a k v = some n) :
    n.wf = true := by
  have hlen : ∀ k v, (leBytes k v).length = k := by
    intro k
    induction k with
    | zero => intro v; rfl
    | succ k ih => intro v; simp [leBytes, ih]
  unfold memWrite at h
  split at h
  · next hk =>
    simp only [Option.some.injEq] at h
    subst h
    exact Memory.store_wf hm (by rw [hlen]; exact hk.2)
  · cases h

end Sys2Proof.Machine
end

