-- ==== Sys2Proof/Laws/Codec.lean ====
section
/-! SUPPORT. The codec: lengths, and where the parts of a built frame stand. -/

namespace Sys2Proof.Machine

@[simp] theorem packArg_length (v : Bool) (x : Word) : (packArg v x).length = 22 := by
  unfold packArg; split <;> simp

theorem frameOf_length {p : List Byte} (a c : Byte) (hp : p.length = 22) : (frameOf a c p).length = 26 := by
  simp [frameOf, hp]

@[simp] theorem requestFrame_length (s : State) : (requestFrame s).length = 26 :=
  frameOf_length _ _ (packArg_length _ _)

@[simp] theorem commandFrame_length (cc : CmdCode) (c : Command) (a : Byte) (v : Bool) (x : Word) :
    (commandFrame cc c a v x).length = 26 :=
  frameOf_length _ _ (packArg_length _ _)

/-- The payload of a built frame is the payload it was built from. -/
theorem payloadOf_frameOf {p : List Byte} (a c : Byte) (hp : p.length = 22) :
    payloadOf (frameOf a c p) = p := by
  have h := bytesAt_append (a := [Config.preamble, a, c]) (b := p)
    (c := [sum8 (Config.preamble :: a :: c :: p)]) (o := 3) (n := 22) rfl hp
  simpa [payloadOf, frameOf] using h

/-- The first 25 bytes of a built frame are what its checksum is the sum of. -/
theorem cksum_frameOf {p : List Byte} (a c : Byte) (hp : p.length = 22) :
    cksum (frameOf a c p) = sum8 (Config.preamble :: a :: c :: p) := by
  unfold cksum frameOf
  rw [List.take_append_of_le_length (by simp [hp]), List.take_of_length_le (by simp [hp])]

/-- The last byte of a built frame is its checksum. -/
theorem byteAt_frameOf_ck {p : List Byte} (a c : Byte) (hp : p.length = 22) :
    byteAt (frameOf a c p) 25 = sum8 (Config.preamble :: a :: c :: p) := by
  unfold byteAt frameOf
  rw [List.getD_append_right _ _ _ _ (by simp [hp])]
  simp [hp]

@[simp] theorem byteAt_frameOf_zero (a c : Byte) (p : List Byte) :
    byteAt (frameOf a c p) 0 = Config.preamble := rfl

@[simp] theorem byteAt_frameOf_one (a c : Byte) (p : List Byte) : byteAt (frameOf a c p) 1 = a := rfl

@[simp] theorem byteAt_frameOf_two (a c : Byte) (p : List Byte) : byteAt (frameOf a c p) 2 = c := rfl

/-- The payload window of 26 bytes is 22 bytes. -/
theorem payloadOf_length {f : List Byte} (hf : f.length = 26) : (payloadOf f).length = 22 :=
  bytesAt_length (by simp [hf])

@[simp] theorem payloadOf_frame_length (m : Memory) : (payloadOf m.frame).length = 22 :=
  payloadOf_length m.frame_length

/-- A payload of 22 bytes is its status byte and its 21 raw bytes. -/
theorem status_cons_raw {p : List Byte} (hp : p.length = 22) : p = byteAt p 0 :: rawBytes p := by
  cases p with
  | nil => simp at hp
  | cons b l =>
    have hl : l.length = 21 := by simpa using hp
    simp [byteAt, rawBytes, fieldBytes, bytesAt, stRaw, List.take_of_length_le, hl]

theorem rawBytes_length {p : List Byte} (hp : p.length = 22) : (rawBytes p).length = 21 :=
  bytesAt_length (by simp [stRaw, hp])

end Sys2Proof.Machine
end

