-- ==== Sys2Proof/Laws/Decode.lean ====
section
/-! SUPPORT. Command codes, the dispatch decoder, and what the decoder reads from a request's bytes. -/

namespace Sys2Proof

open Machine

theorem Command.mem_all (c : Command) : c ∈ Command.all := by cases c <;> decide

theorem Command.index_lt (c : Command) : c.index < 19 := by cases c <;> decide

theorem Command.index_inj {c d : Command} (h : c.index = d.index) : c = d := by
  have hall : ∀ c : Command, Command.all.getD c.index .read = c := by intro c; cases c <;> rfl
  rw [← hall c, ← hall d, h]

/-- R10: two commands never share a code. -/
theorem CmdCode.code_inj {cc : CmdCode} (hcc : cc.wf = true) {c d : Command} (h : cc.code c = cc.code d) :
    c = d := by
  simp only [CmdCode.wf, Bool.and_eq_true, beq_iff_eq, decide_eq_true_eq] at hcc
  obtain ⟨⟨hlen, -⟩, hnd⟩ := hcc
  have hlen' : cc.length = 19 := hlen
  have hc := c.index_lt
  have hd := d.index_lt
  unfold CmdCode.code at h
  rw [List.getD_eq_getElem _ _ (by omega), List.getD_eq_getElem _ _ (by omega)] at h
  exact Command.index_inj ((List.Nodup.getElem_inj_iff hnd).mp h)

/-- A looked-up command has the byte as its code. -/
theorem CmdCode.lookup_some {cc : CmdCode} {b : Byte} {c : Command} (h : cc.lookup b = some c) :
    cc.code c = b := by
  simpa using List.find?_some h

theorem CmdCode.lookup_none {cc : CmdCode} {b : Byte} (h : cc.lookup b = none) (c : Command) :
    cc.code c ≠ b := by
  have := List.find?_eq_none.mp h c c.mem_all
  simpa using this

/-- Under R10, looking up a command's code finds the command. -/
theorem CmdCode.lookup_code {cc : CmdCode} (hcc : cc.wf = true) (c : Command) :
    cc.lookup (cc.code c) = some c := by
  cases h : cc.lookup (cc.code c) with
  | none => exact absurd rfl (CmdCode.lookup_none h c)
  | some d => rw [CmdCode.code_inj hcc (CmdCode.lookup_some h)]

/-- A byte is of class `U` exactly when it is no command's code. -/
theorem classOf_eq_U_iff {cc : CmdCode} {b : Byte} : classOf cc b = .U ↔ ∀ c, cc.code c ≠ b := by
  unfold classOf
  constructor
  · intro h c hc
    have hany : Command.all.any (fun c => cc.code c == b) = true :=
      List.any_eq_true.mpr ⟨c, c.mem_all, by simpa using hc⟩
    rw [hany] at h
    repeat' split at h
    all_goals simp_all
  · intro h
    rw [if_neg (fun e => h .read e.symm), if_neg (fun e => h .readProductInfo e.symm), if_neg]
    simp only [List.any_eq_true, not_exists, not_and]
    intro c _
    simpa using h c

theorem classOf_code_ne_U (cc : CmdCode) (c : Command) : classOf cc (cc.code c) ≠ .U :=
  fun h => classOf_eq_U_iff.mp h c rfl

/-- A byte has no command exactly when it is of class `U`. -/
theorem CmdCode.lookup_eq_none_iff {cc : CmdCode} {b : Byte} : cc.lookup b = none ↔ classOf cc b = .U := by
  rw [classOf_eq_U_iff]
  refine ⟨CmdCode.lookup_none, fun h => ?_⟩
  cases hl : cc.lookup b with
  | none => rfl
  | some c => exact absurd (CmdCode.lookup_some hl) (h c)

/-- Under R10, the two record commands are told apart from the other 17. -/
theorem classOf_code {cc : CmdCode} (hcc : cc.wf = true) (c : Command) :
    classOf cc (cc.code c) = c.replyClass := by
  have hS : Command.all.any (fun d => cc.code d == cc.code c) = true :=
    List.any_eq_true.mpr ⟨c, c.mem_all, by simp⟩
  have hne : ∀ d, c ≠ d → cc.code c ≠ cc.code d := fun d hd e => hd (CmdCode.code_inj hcc e)
  unfold classOf
  rw [hS]
  by_cases h1 : c = .read
  · subst h1; rw [if_pos rfl]; rfl
  by_cases h2 : c = .readProductInfo
  · subst h2; rw [if_neg (hne _ h1), if_pos rfl]; rfl
  rw [if_neg (hne _ h1), if_neg (hne _ h2), if_pos rfl]
  cases c <;> first | rfl | exact absurd rfl h1 | exact absurd rfl h2

/-- The decoder on the bytes of a request. -/
theorem decodeRequest_requestBytes (cc : CmdCode) (cmd a : Byte) (v : Bool) (x : Word) :
    decodeRequest cc (requestBytes cmd a v x) =
      match cc.lookup cmd with
      | none => .error (.undefinedCommand cmd)
      | some c => .ok (c.instr a v x) := by
  have h4 : le32 x = [BitVec.ofNat 8 x.toNat, BitVec.ofNat 8 (x.toNat / 256),
      BitVec.ofNat 8 (x.toNat / 256 / 256), BitVec.ofNat 8 (x.toNat / 256 / 256 / 256)] := rfl
  have hx : BitVec.ofNat 32 (leNat (le32 x)) = x := by rw [leNat_le32]; simp
  rw [h4] at hx
  unfold requestBytes
  rw [h4]
  simp only [List.cons_append, List.nil_append, decodeRequest, hx]
  cases cc.lookup cmd with
  | none => rfl
  | some c => cases v <;> rfl

end Sys2Proof
end

