-- ==== Sys2Proof/Laws/PerInstr.lean ====
section
/-! SUPPORT. One law per instruction: a well-formed instruction's encoding has its channel's length, 7 bytes on the
request channel (log entry 6), 22 bytes as a reply payload (R72). -/

namespace Sys2Proof.Laws.EncodedLength

/-- The length of a channel's encoding. -/
def channelLength : Channel → Nat
  | .request => 7
  | .reply => 22

/-- A well-formed instruction encodes to its channel's length. -/
def Statement (i : Instr) : Prop :=
  i.wf = true → ∀ cc : CmdCode, (encode cc i).length = channelLength i.channel

theorem requestBytes_length (cmd addr : Byte) (v : Bool) (x : Word) : (requestBytes cmd addr v x).length = 7 := by
  simp [requestBytes]

theorem status_length {st : Byte} {raw : List Byte} (h : Instr.rawOk raw = true) : (st :: raw).length = 22 := by
  simp only [Instr.rawOk, Config.payloadLen, beq_iff_eq] at h
  simp [h]

theorem setRemoteMode (a : Byte) (v : Bool) (x : Word) : Statement (.setRemoteMode a v x) :=
  fun _ _ => requestBytes_length _ _ _ _

theorem setOutputPower (a : Byte) (v : Bool) (x : Word) : Statement (.setOutputPower a v x) :=
  fun _ _ => requestBytes_length _ _ _ _

theorem setMaxOutputVoltage (a : Byte) (v : Bool) (x : Word) : Statement (.setMaxOutputVoltage a v x) :=
  fun _ _ => requestBytes_length _ _ _ _

theorem setOutputVoltage (a : Byte) (v : Bool) (x : Word) : Statement (.setOutputVoltage a v x) :=
  fun _ _ => requestBytes_length _ _ _ _

theorem setOutputCurrent (a : Byte) (v : Bool) (x : Word) : Statement (.setOutputCurrent a v x) :=
  fun _ _ => requestBytes_length _ _ _ _

theorem setCommAddr (a : Byte) (v : Bool) (x : Word) : Statement (.setCommAddr a v x) :=
  fun _ _ => requestBytes_length _ _ _ _

theorem read (a : Byte) (v : Bool) (x : Word) : Statement (.read a v x) :=
  fun _ _ => requestBytes_length _ _ _ _

theorem calibMode (a : Byte) (v : Bool) (x : Word) : Statement (.calibMode a v x) :=
  fun _ _ => requestBytes_length _ _ _ _

theorem readCalibState (a : Byte) (v : Bool) (x : Word) : Statement (.readCalibState a v x) :=
  fun _ _ => requestBytes_length _ _ _ _

theorem calibVoltage (a : Byte) (v : Bool) (x : Word) : Statement (.calibVoltage a v x) :=
  fun _ _ => requestBytes_length _ _ _ _

theorem sendActualVoltage (a : Byte) (v : Bool) (x : Word) : Statement (.sendActualVoltage a v x) :=
  fun _ _ => requestBytes_length _ _ _ _

theorem calibCurrent (a : Byte) (v : Bool) (x : Word) : Statement (.calibCurrent a v x) :=
  fun _ _ => requestBytes_length _ _ _ _

theorem sendActualCurrent (a : Byte) (v : Bool) (x : Word) : Statement (.sendActualCurrent a v x) :=
  fun _ _ => requestBytes_length _ _ _ _

theorem saveCalibData (a : Byte) (v : Bool) (x : Word) : Statement (.saveCalibData a v x) :=
  fun _ _ => requestBytes_length _ _ _ _

theorem setCalibInfo (a : Byte) (v : Bool) (x : Word) : Statement (.setCalibInfo a v x) :=
  fun _ _ => requestBytes_length _ _ _ _

theorem readCalibInfo (a : Byte) (v : Bool) (x : Word) : Statement (.readCalibInfo a v x) :=
  fun _ _ => requestBytes_length _ _ _ _

theorem readProductInfo (a : Byte) (v : Bool) (x : Word) : Statement (.readProductInfo a v x) :=
  fun _ _ => requestBytes_length _ _ _ _

theorem restoreFactoryDefault (a : Byte) (v : Bool) (x : Word) : Statement (.restoreFactoryDefault a v x) :=
  fun _ _ => requestBytes_length _ _ _ _

theorem enableLocalKey (a : Byte) (v : Bool) (x : Word) : Statement (.enableLocalKey a v x) :=
  fun _ _ => requestBytes_length _ _ _ _

theorem statusCommandSuccessful (raw : List Byte) : Statement (.statusCommandSuccessful raw) :=
  fun h _ => status_length h

theorem statusChecksumIncorrect (raw : List Byte) : Statement (.statusChecksumIncorrect raw) :=
  fun h _ => status_length h

theorem statusParameterIncorrect (raw : List Byte) : Statement (.statusParameterIncorrect raw) :=
  fun h _ => status_length h

theorem statusUnrecognizedCommand (raw : List Byte) : Statement (.statusUnrecognizedCommand raw) :=
  fun h _ => status_length h

theorem statusInvalidCommand (raw : List Byte) : Statement (.statusInvalidCommand raw) :=
  fun h _ => status_length h

theorem statusUnknown (st : Byte) (raw : List Byte) : Statement (.statusUnknown st raw) := fun h _ => by
  simp only [Instr.wf, Bool.and_eq_true] at h
  exact status_length h.1

end Sys2Proof.Laws.EncodedLength
end

