-- ==== Sys2Proof/Laws/State.lean ====
section
/-! SUPPORT. One lemma per field per update of the state: no later proof unfolds a record update. -/

namespace Sys2Proof.Machine

/-! ### raise -/

@[simp] theorem raise_fb (e : Error) (info : Byte) (s : State) :
    (raise e info s).fb = s.fb := rfl
@[simp] theorem raise_cmdreg (e : Error) (info : Byte) (s : State) :
    (raise e info s).cmdreg = s.cmdreg := rfl
@[simp] theorem raise_addrreg (e : Error) (info : Byte) (s : State) :
    (raise e info s).addrreg = s.addrreg := rfl
@[simp] theorem raise_argreg (e : Error) (info : Byte) (s : State) :
    (raise e info s).argreg = s.argreg := rfl
@[simp] theorem raise_argv (e : Error) (info : Byte) (s : State) :
    (raise e info s).argv = s.argv := rfl
@[simp] theorem raise_idx (e : Error) (info : Byte) (s : State) :
    (raise e info s).idx = 0 := rfl
@[simp] theorem raise_phase (e : Error) (info : Byte) (s : State) :
    (raise e info s).phase = e.terminal := rfl
@[simp] theorem raise_ckOk (e : Error) (info : Byte) (s : State) :
    (raise e info s).ckOk = s.ckOk := rfl
@[simp] theorem raise_preOk (e : Error) (info : Byte) (s : State) :
    (raise e info s).preOk = s.preOk := rfl
@[simp] theorem raise_resKind (e : Error) (info : Byte) (s : State) :
    (raise e info s).resKind = e.kind := rfl
@[simp] theorem raise_resCode (e : Error) (info : Byte) (s : State) :
    (raise e info s).resCode = info := rfl
@[simp] theorem raise_cmdCode (e : Error) (info : Byte) (s : State) :
    (raise e info s).cmdCode = s.cmdCode := rfl
@[simp] theorem raise_ports (e : Error) (info : Byte) (s : State) :
    (raise e info s).ports = s.ports := rfl
@[simp] theorem raise_pending (e : Error) (info : Byte) (s : State) :
    (raise e info s).pending = s.pending := rfl
@[simp] theorem raise_trace (e : Error) (info : Byte) (s : State) :
    (raise e info s).trace = .judged e.kind info :: s.trace := rfl
@[simp] theorem raise_freeCount (e : Error) (info : Byte) (s : State) :
    (raise e info s).freeCount = s.freeCount := rfl

/-! ### succeed -/

@[simp] theorem succeed_fb (k : ResKind) (c : Byte) (s : State) :
    (succeed k c s).fb = s.fb := rfl
@[simp] theorem succeed_cmdreg (k : ResKind) (c : Byte) (s : State) :
    (succeed k c s).cmdreg = s.cmdreg := rfl
@[simp] theorem succeed_addrreg (k : ResKind) (c : Byte) (s : State) :
    (succeed k c s).addrreg = s.addrreg := rfl
@[simp] theorem succeed_argreg (k : ResKind) (c : Byte) (s : State) :
    (succeed k c s).argreg = s.argreg := rfl
@[simp] theorem succeed_argv (k : ResKind) (c : Byte) (s : State) :
    (succeed k c s).argv = s.argv := rfl
@[simp] theorem succeed_idx (k : ResKind) (c : Byte) (s : State) :
    (succeed k c s).idx = s.idx := rfl
@[simp] theorem succeed_phase (k : ResKind) (c : Byte) (s : State) :
    (succeed k c s).phase = .success := rfl
@[simp] theorem succeed_ckOk (k : ResKind) (c : Byte) (s : State) :
    (succeed k c s).ckOk = s.ckOk := rfl
@[simp] theorem succeed_preOk (k : ResKind) (c : Byte) (s : State) :
    (succeed k c s).preOk = s.preOk := rfl
@[simp] theorem succeed_resKind (k : ResKind) (c : Byte) (s : State) :
    (succeed k c s).resKind = k := rfl
@[simp] theorem succeed_resCode (k : ResKind) (c : Byte) (s : State) :
    (succeed k c s).resCode = c := rfl
@[simp] theorem succeed_cmdCode (k : ResKind) (c : Byte) (s : State) :
    (succeed k c s).cmdCode = s.cmdCode := rfl
@[simp] theorem succeed_ports (k : ResKind) (c : Byte) (s : State) :
    (succeed k c s).ports = s.ports := rfl
@[simp] theorem succeed_pending (k : ResKind) (c : Byte) (s : State) :
    (succeed k c s).pending = s.pending := rfl
@[simp] theorem succeed_trace (k : ResKind) (c : Byte) (s : State) :
    (succeed k c s).trace = .judged k c :: s.trace := rfl
@[simp] theorem succeed_freeCount (k : ResKind) (c : Byte) (s : State) :
    (succeed k c s).freeCount = s.freeCount := rfl

/-! ### setFlags -/

@[simp] theorem setFlags_fb (ck pre : Bool) (s : State) :
    (setFlags ck pre s).fb = s.fb := rfl
@[simp] theorem setFlags_cmdreg (ck pre : Bool) (s : State) :
    (setFlags ck pre s).cmdreg = s.cmdreg := rfl
@[simp] theorem setFlags_addrreg (ck pre : Bool) (s : State) :
    (setFlags ck pre s).addrreg = s.addrreg := rfl
@[simp] theorem setFlags_argreg (ck pre : Bool) (s : State) :
    (setFlags ck pre s).argreg = s.argreg := rfl
@[simp] theorem setFlags_argv (ck pre : Bool) (s : State) :
    (setFlags ck pre s).argv = s.argv := rfl
@[simp] theorem setFlags_idx (ck pre : Bool) (s : State) :
    (setFlags ck pre s).idx = s.idx := rfl
@[simp] theorem setFlags_phase (ck pre : Bool) (s : State) :
    (setFlags ck pre s).phase = s.phase := rfl
@[simp] theorem setFlags_ckOk (ck pre : Bool) (s : State) :
    (setFlags ck pre s).ckOk = ck := rfl
@[simp] theorem setFlags_preOk (ck pre : Bool) (s : State) :
    (setFlags ck pre s).preOk = pre := rfl
@[simp] theorem setFlags_resKind (ck pre : Bool) (s : State) :
    (setFlags ck pre s).resKind = s.resKind := rfl
@[simp] theorem setFlags_resCode (ck pre : Bool) (s : State) :
    (setFlags ck pre s).resCode = s.resCode := rfl
@[simp] theorem setFlags_cmdCode (ck pre : Bool) (s : State) :
    (setFlags ck pre s).cmdCode = s.cmdCode := rfl
@[simp] theorem setFlags_ports (ck pre : Bool) (s : State) :
    (setFlags ck pre s).ports = s.ports := rfl
@[simp] theorem setFlags_pending (ck pre : Bool) (s : State) :
    (setFlags ck pre s).pending = s.pending := rfl
@[simp] theorem setFlags_trace (ck pre : Bool) (s : State) :
    (setFlags ck pre s).trace = s.trace := rfl
@[simp] theorem setFlags_freeCount (ck pre : Bool) (s : State) :
    (setFlags ck pre s).freeCount = s.freeCount := rfl

/-! ### ack -/

@[simp] theorem ack_fb (s : State) :
    (ack s).fb = s.fb := rfl
@[simp] theorem ack_cmdreg (s : State) :
    (ack s).cmdreg = s.cmdreg := rfl
@[simp] theorem ack_addrreg (s : State) :
    (ack s).addrreg = s.addrreg := rfl
@[simp] theorem ack_argreg (s : State) :
    (ack s).argreg = s.argreg := rfl
@[simp] theorem ack_argv (s : State) :
    (ack s).argv = s.argv := rfl
@[simp] theorem ack_idx (s : State) :
    (ack s).idx = s.idx := rfl
@[simp] theorem ack_phase (s : State) :
    (ack s).phase = .idle := rfl
@[simp] theorem ack_ckOk (s : State) :
    (ack s).ckOk = false := rfl
@[simp] theorem ack_preOk (s : State) :
    (ack s).preOk = false := rfl
@[simp] theorem ack_resKind (s : State) :
    (ack s).resKind = .none := rfl
@[simp] theorem ack_resCode (s : State) :
    (ack s).resCode = 0 := rfl
@[simp] theorem ack_cmdCode (s : State) :
    (ack s).cmdCode = s.cmdCode := rfl
@[simp] theorem ack_ports (s : State) :
    (ack s).ports = s.ports := rfl
@[simp] theorem ack_pending (s : State) :
    (ack s).pending = s.pending := rfl
@[simp] theorem ack_trace (s : State) :
    (ack s).trace = .taken s.resKind s.resCode :: s.trace := rfl
@[simp] theorem ack_freeCount (s : State) :
    (ack s).freeCount = s.freeCount := rfl

/-! ### latch -/

@[simp] theorem latch_fb (c a : Byte) (v : Bool) (x : Word) (s : State) :
    (latch c a v x s).fb = s.fb := rfl
@[simp] theorem latch_cmdreg (c a : Byte) (v : Bool) (x : Word) (s : State) :
    (latch c a v x s).cmdreg = c := rfl
@[simp] theorem latch_addrreg (c a : Byte) (v : Bool) (x : Word) (s : State) :
    (latch c a v x s).addrreg = a := rfl
@[simp] theorem latch_argreg (c a : Byte) (v : Bool) (x : Word) (s : State) :
    (latch c a v x s).argreg = x := rfl
@[simp] theorem latch_argv (c a : Byte) (v : Bool) (x : Word) (s : State) :
    (latch c a v x s).argv = v := rfl
@[simp] theorem latch_idx (c a : Byte) (v : Bool) (x : Word) (s : State) :
    (latch c a v x s).idx = s.idx := rfl
@[simp] theorem latch_phase (c a : Byte) (v : Bool) (x : Word) (s : State) :
    (latch c a v x s).phase = .encoding := rfl
@[simp] theorem latch_ckOk (c a : Byte) (v : Bool) (x : Word) (s : State) :
    (latch c a v x s).ckOk = s.ckOk := rfl
@[simp] theorem latch_preOk (c a : Byte) (v : Bool) (x : Word) (s : State) :
    (latch c a v x s).preOk = s.preOk := rfl
@[simp] theorem latch_resKind (c a : Byte) (v : Bool) (x : Word) (s : State) :
    (latch c a v x s).resKind = s.resKind := rfl
@[simp] theorem latch_resCode (c a : Byte) (v : Bool) (x : Word) (s : State) :
    (latch c a v x s).resCode = s.resCode := rfl
@[simp] theorem latch_cmdCode (c a : Byte) (v : Bool) (x : Word) (s : State) :
    (latch c a v x s).cmdCode = s.cmdCode := rfl
@[simp] theorem latch_ports (c a : Byte) (v : Bool) (x : Word) (s : State) :
    (latch c a v x s).ports = s.ports := rfl
@[simp] theorem latch_pending (c a : Byte) (v : Bool) (x : Word) (s : State) :
    (latch c a v x s).pending = s.pending := rfl
@[simp] theorem latch_trace (c a : Byte) (v : Bool) (x : Word) (s : State) :
    (latch c a v x s).trace = .accepted c a v x :: s.trace := rfl
@[simp] theorem latch_freeCount (c a : Byte) (v : Bool) (x : Word) (s : State) :
    (latch c a v x s).freeCount = s.freeCount := rfl

/-! ### encodeStep -/

@[simp] theorem encodeStep_fb (s : State) :
    (encodeStep s).fb = s.fb.store 0 (requestFrame s) := rfl
@[simp] theorem encodeStep_cmdreg (s : State) :
    (encodeStep s).cmdreg = s.cmdreg := rfl
@[simp] theorem encodeStep_addrreg (s : State) :
    (encodeStep s).addrreg = s.addrreg := rfl
@[simp] theorem encodeStep_argreg (s : State) :
    (encodeStep s).argreg = s.argreg := rfl
@[simp] theorem encodeStep_argv (s : State) :
    (encodeStep s).argv = s.argv := rfl
@[simp] theorem encodeStep_idx (s : State) :
    (encodeStep s).idx = 0 := rfl
@[simp] theorem encodeStep_phase (s : State) :
    (encodeStep s).phase = .writing := rfl
@[simp] theorem encodeStep_ckOk (s : State) :
    (encodeStep s).ckOk = s.ckOk := rfl
@[simp] theorem encodeStep_preOk (s : State) :
    (encodeStep s).preOk = s.preOk := rfl
@[simp] theorem encodeStep_resKind (s : State) :
    (encodeStep s).resKind = s.resKind := rfl
@[simp] theorem encodeStep_resCode (s : State) :
    (encodeStep s).resCode = s.resCode := rfl
@[simp] theorem encodeStep_cmdCode (s : State) :
    (encodeStep s).cmdCode = s.cmdCode := rfl
@[simp] theorem encodeStep_ports (s : State) :
    (encodeStep s).ports = s.ports := rfl
@[simp] theorem encodeStep_pending (s : State) :
    (encodeStep s).pending = s.pending := rfl
@[simp] theorem encodeStep_trace (s : State) :
    (encodeStep s).trace = s.trace := rfl
@[simp] theorem encodeStep_freeCount (s : State) :
    (encodeStep s).freeCount = s.freeCount := rfl

/-! ### resetEdge -/

@[simp] theorem resetEdge_fb (s : State) :
    (resetEdge s).fb = Memory.store [] 0 ((List.range Config.frameLen).map (Config.freeFrameByte s.freeCount)) := by simp only [resetEdge]
@[simp] theorem resetEdge_cmdreg (s : State) :
    (resetEdge s).cmdreg = Config.freeCmd s.freeCount := rfl
@[simp] theorem resetEdge_addrreg (s : State) :
    (resetEdge s).addrreg = Config.freeAddr s.freeCount := rfl
@[simp] theorem resetEdge_argreg (s : State) :
    (resetEdge s).argreg = Config.freeArg s.freeCount := rfl
@[simp] theorem resetEdge_argv (s : State) :
    (resetEdge s).argv = Config.freeArgv s.freeCount := rfl
@[simp] theorem resetEdge_idx (s : State) :
    (resetEdge s).idx = 0 := rfl
@[simp] theorem resetEdge_phase (s : State) :
    (resetEdge s).phase = .idle := rfl
@[simp] theorem resetEdge_ckOk (s : State) :
    (resetEdge s).ckOk = false := rfl
@[simp] theorem resetEdge_preOk (s : State) :
    (resetEdge s).preOk = false := rfl
@[simp] theorem resetEdge_resKind (s : State) :
    (resetEdge s).resKind = .none := rfl
@[simp] theorem resetEdge_resCode (s : State) :
    (resetEdge s).resCode = 0 := rfl
@[simp] theorem resetEdge_cmdCode (s : State) :
    (resetEdge s).cmdCode = s.cmdCode := by simp only [resetEdge]
@[simp] theorem resetEdge_ports (s : State) :
    (resetEdge s).ports = s.ports := by simp only [resetEdge]
@[simp] theorem resetEdge_pending (s : State) :
    (resetEdge s).pending = s.pending := by simp only [resetEdge]
@[simp] theorem resetEdge_trace (s : State) :
    (resetEdge s).trace = .reset :: s.trace := rfl
@[simp] theorem resetEdge_freeCount (s : State) :
    (resetEdge s).freeCount = s.freeCount + 1 := rfl

/-! ### txByte -/

@[simp] theorem txByte_fb (b : Byte) (s : State) :
    (txByte b s).fb = s.fb := by
  unfold txByte; split <;> rfl
@[simp] theorem txByte_cmdreg (b : Byte) (s : State) :
    (txByte b s).cmdreg = s.cmdreg := by
  unfold txByte; split <;> rfl
@[simp] theorem txByte_addrreg (b : Byte) (s : State) :
    (txByte b s).addrreg = s.addrreg := by
  unfold txByte; split <;> rfl
@[simp] theorem txByte_argreg (b : Byte) (s : State) :
    (txByte b s).argreg = s.argreg := by
  unfold txByte; split <;> rfl
@[simp] theorem txByte_argv (b : Byte) (s : State) :
    (txByte b s).argv = s.argv := by
  unfold txByte; split <;> rfl
@[simp] theorem txByte_idx (b : Byte) (s : State) :
    (txByte b s).idx = if s.idx = 25 then 0 else s.idx + 1 := by
  unfold txByte; split <;> rfl
@[simp] theorem txByte_phase (b : Byte) (s : State) :
    (txByte b s).phase = if s.idx = 25 then .awaitingReply else s.phase := by
  unfold txByte; split <;> rfl
@[simp] theorem txByte_ckOk (b : Byte) (s : State) :
    (txByte b s).ckOk = s.ckOk := by
  unfold txByte; split <;> rfl
@[simp] theorem txByte_preOk (b : Byte) (s : State) :
    (txByte b s).preOk = s.preOk := by
  unfold txByte; split <;> rfl
@[simp] theorem txByte_resKind (b : Byte) (s : State) :
    (txByte b s).resKind = s.resKind := by
  unfold txByte; split <;> rfl
@[simp] theorem txByte_resCode (b : Byte) (s : State) :
    (txByte b s).resCode = s.resCode := by
  unfold txByte; split <;> rfl
@[simp] theorem txByte_cmdCode (b : Byte) (s : State) :
    (txByte b s).cmdCode = s.cmdCode := by
  unfold txByte; split <;> rfl
@[simp] theorem txByte_ports (b : Byte) (s : State) :
    (txByte b s).ports = s.ports := by
  unfold txByte; split <;> rfl
@[simp] theorem txByte_pending (b : Byte) (s : State) :
    (txByte b s).pending = s.pending := by
  unfold txByte; split <;> rfl
@[simp] theorem txByte_trace (b : Byte) (s : State) :
    (txByte b s).trace = .txByte b :: s.trace := by
  unfold txByte; split <;> rfl
@[simp] theorem txByte_freeCount (b : Byte) (s : State) :
    (txByte b s).freeCount = s.freeCount := by
  unfold txByte; split <;> rfl

/-! ### rxByte -/

@[simp] theorem rxByte_fb (b : Byte) (m : Memory) (s : State) :
    (rxByte b m s).fb = m := by
  unfold rxByte; split <;> rfl
@[simp] theorem rxByte_cmdreg (b : Byte) (m : Memory) (s : State) :
    (rxByte b m s).cmdreg = s.cmdreg := by
  unfold rxByte; split <;> rfl
@[simp] theorem rxByte_addrreg (b : Byte) (m : Memory) (s : State) :
    (rxByte b m s).addrreg = s.addrreg := by
  unfold rxByte; split <;> rfl
@[simp] theorem rxByte_argreg (b : Byte) (m : Memory) (s : State) :
    (rxByte b m s).argreg = s.argreg := by
  unfold rxByte; split <;> rfl
@[simp] theorem rxByte_argv (b : Byte) (m : Memory) (s : State) :
    (rxByte b m s).argv = s.argv := by
  unfold rxByte; split <;> rfl
@[simp] theorem rxByte_idx (b : Byte) (m : Memory) (s : State) :
    (rxByte b m s).idx = if s.idx = 25 then 0 else s.idx + 1 := by
  unfold rxByte; split <;> rfl
@[simp] theorem rxByte_phase (b : Byte) (m : Memory) (s : State) :
    (rxByte b m s).phase = if s.idx = 25 then .decoding else .reading := by
  unfold rxByte; split <;> rfl
@[simp] theorem rxByte_ckOk (b : Byte) (m : Memory) (s : State) :
    (rxByte b m s).ckOk = s.ckOk := by
  unfold rxByte; split <;> rfl
@[simp] theorem rxByte_preOk (b : Byte) (m : Memory) (s : State) :
    (rxByte b m s).preOk = s.preOk := by
  unfold rxByte; split <;> rfl
@[simp] theorem rxByte_resKind (b : Byte) (m : Memory) (s : State) :
    (rxByte b m s).resKind = s.resKind := by
  unfold rxByte; split <;> rfl
@[simp] theorem rxByte_resCode (b : Byte) (m : Memory) (s : State) :
    (rxByte b m s).resCode = s.resCode := by
  unfold rxByte; split <;> rfl
@[simp] theorem rxByte_cmdCode (b : Byte) (m : Memory) (s : State) :
    (rxByte b m s).cmdCode = s.cmdCode := by
  unfold rxByte; split <;> rfl
@[simp] theorem rxByte_ports (b : Byte) (m : Memory) (s : State) :
    (rxByte b m s).ports = s.ports := by
  unfold rxByte; split <;> rfl
@[simp] theorem rxByte_pending (b : Byte) (m : Memory) (s : State) :
    (rxByte b m s).pending = s.pending := by
  unfold rxByte; split <;> rfl
@[simp] theorem rxByte_trace (b : Byte) (m : Memory) (s : State) :
    (rxByte b m s).trace = .rxByte b :: s.trace := by
  unfold rxByte; split <;> rfl
@[simp] theorem rxByte_freeCount (b : Byte) (m : Memory) (s : State) :
    (rxByte b m s).freeCount = s.freeCount := by
  unfold rxByte; split <;> rfl

/-! ### nextInputs: the ports and what is pending are all it touches -/

@[simp] theorem nextInputs_fb (s : State) : (nextInputs s).fb = s.fb := by
  unfold nextInputs; split <;> rfl
@[simp] theorem nextInputs_cmdreg (s : State) : (nextInputs s).cmdreg = s.cmdreg := by
  unfold nextInputs; split <;> rfl
@[simp] theorem nextInputs_addrreg (s : State) : (nextInputs s).addrreg = s.addrreg := by
  unfold nextInputs; split <;> rfl
@[simp] theorem nextInputs_argreg (s : State) : (nextInputs s).argreg = s.argreg := by
  unfold nextInputs; split <;> rfl
@[simp] theorem nextInputs_argv (s : State) : (nextInputs s).argv = s.argv := by
  unfold nextInputs; split <;> rfl
@[simp] theorem nextInputs_idx (s : State) : (nextInputs s).idx = s.idx := by
  unfold nextInputs; split <;> rfl
@[simp] theorem nextInputs_phase (s : State) : (nextInputs s).phase = s.phase := by
  unfold nextInputs; split <;> rfl
@[simp] theorem nextInputs_ckOk (s : State) : (nextInputs s).ckOk = s.ckOk := by
  unfold nextInputs; split <;> rfl
@[simp] theorem nextInputs_preOk (s : State) : (nextInputs s).preOk = s.preOk := by
  unfold nextInputs; split <;> rfl
@[simp] theorem nextInputs_resKind (s : State) : (nextInputs s).resKind = s.resKind := by
  unfold nextInputs; split <;> rfl
@[simp] theorem nextInputs_resCode (s : State) : (nextInputs s).resCode = s.resCode := by
  unfold nextInputs; split <;> rfl
@[simp] theorem nextInputs_cmdCode (s : State) : (nextInputs s).cmdCode = s.cmdCode := by
  unfold nextInputs; split <;> rfl
@[simp] theorem nextInputs_trace (s : State) : (nextInputs s).trace = s.trace := by
  unfold nextInputs; split <;> rfl
@[simp] theorem nextInputs_freeCount (s : State) : (nextInputs s).freeCount = s.freeCount := by
  unfold nextInputs; split <;> rfl

theorem nextInputs_ports (s : State) : (nextInputs s).ports = s.pending.headD s.ports := by
  unfold nextInputs; split <;> simp_all

theorem nextInputs_pending (s : State) : (nextInputs s).pending = s.pending.tail := by
  unfold nextInputs; split <;> simp_all

/-! ### The views that read several fields -/

@[simp] theorem nextInputs_requestFrame (s : State) : requestFrame (nextInputs s) = requestFrame s := by
  simp [requestFrame]

@[simp] theorem nextInputs_replyClassOf (s : State) : replyClassOf (nextInputs s) = replyClassOf s := by
  simp [replyClassOf]

end Sys2Proof.Machine
end

