-- ==== Sys2Proof/Laws/Steps.lean ====
section
/-! SUPPORT. What each shared operation can do, once: the meanings, the steps of the exchange, one edge, one step.
Later proofs cite these and unfold none of them. -/

namespace Sys2Proof.Machine

/-- Every command's meaning is its own `request`. -/
theorem exec_instr (c : Command) (a : Byte) (v : Bool) (x : Word) (s : State) :
    exec (c.instr a v x) s = request c a v x s := by
  cases c <;> rfl

theorem holdsRequest_iff {cmd a : Byte} {v : Bool} {x : Word} {s : State} :
    holdsRequest cmd a v x s = true ↔ s.cmdreg = cmd ∧ s.addrreg = a ∧ s.argv = v ∧ s.argreg = x := by
  simp [holdsRequest, and_assoc]

theorem holdsReply_iff {st : Byte} {raw : List Byte} {s : State} :
    holdsReply st raw s = true ↔
      s.phase = .decoding ∧ replyClassOf s = .S ∧ verify s.fb.frame = true ∧
        preambleValid s.fb.frame = true ∧ payloadOf s.fb.frame = st :: raw := by
  simp [holdsReply, and_assoc]

/-- A request of a defined command in `Idle` is latched. -/
theorem request_idle {c : Command} {a : Byte} {v : Bool} {x : Word} {s : State} (h : s.phase = .idle) :
    request c a v x s = .next (latch (s.cmdCode.code c) a v x s) := by
  simp [request, h, acceptStep, classOf_code_ne_U]

/-- While its exchange is in progress, a request's edge is the exchange's. -/
theorem request_held {c : Command} {a : Byte} {v : Bool} {x : Word} {s : State}
    (h : holdsRequest (s.cmdCode.code c) a v x s = true) (hi : s.phase ≠ .idle) (hr : s.phase ≠ .refused) :
    request c a v x s = exchange s := by
  unfold request
  split <;> simp_all

/-- Everything a request's edge can do: nothing, ACCEPT, or the exchange's next step. -/
theorem request_cases {c : Command} {a : Byte} {v : Bool} {x : Word} {s : State} :
    request c a v x s = .next s ∨
    (s.phase = .idle ∧ request c a v x s = .next (latch (s.cmdCode.code c) a v x s)) ∨
    (s.phase ≠ .idle ∧ s.phase ≠ .refused ∧ holdsRequest (s.cmdCode.code c) a v x s = true ∧
      request c a v x s = exchange s) := by
  by_cases hi : s.phase = .idle
  · exact .inr (.inl ⟨hi, request_idle hi⟩)
  by_cases hr : s.phase = .refused
  · exact .inl (by simp [request, hr])
  by_cases hh : holdsRequest (s.cmdCode.code c) a v x s = true
  · exact .inr (.inr ⟨hi, hr, hh, request_held hh hi hr⟩)
  · refine .inl ?_
    unfold request
    split <;> simp_all

/-- Status classification, by whole bytes. -/
theorem Status_ofByte_cases (b : Byte) :
    (b = 0x80 ∧ Status.ofByte b = .commandSuccessful) ∨ (b = 0x90 ∧ Status.ofByte b = .checksumIncorrect) ∨
    (b = 0xA0 ∧ Status.ofByte b = .parameterIncorrect) ∨ (b = 0xB0 ∧ Status.ofByte b = .unrecognizedCommand) ∨
    (b = 0xC0 ∧ Status.ofByte b = .invalidCommand) ∨
    (b ≠ 0x80 ∧ b ≠ 0x90 ∧ b ≠ 0xA0 ∧ b ≠ 0xB0 ∧ b ≠ 0xC0 ∧ Status.ofByte b = .unknown) := by
  unfold Status.ofByte
  split_ifs <;> simp_all

/-- The success kinds, as a Bool. -/
def ResKind.success : ResKind → Bool
  | .okRaw | .okTelemetry | .okIdentity => true
  | .none | .errTransport | .errChecksum | .errRejected | .errUnknownStatus | .errMalformed | .errBadRequest => false

/-- What the judgement of a reply writes: the flags of the frame, a kind and a code, a terminal phase, one event. -/
def judgedState (kind : ResKind) (code : Byte) (s : State) : State :=
  { s with
    ckOk := verify s.fb.frame, preOk := preambleValid s.fb.frame, resKind := kind, resCode := code,
    idx := if kind.success then s.idx else 0,
    phase := if kind.success then .success else .protocolError,
    trace := .judged kind code :: s.trace }

/-- A status row's meaning where it is what DECODE meets. -/
theorem statusStep_good {s : State} (hp : s.phase = .decoding) (hS : replyClassOf s = .S)
    (hv : verify s.fb.frame = true) (hpre : preambleValid s.fb.frame = true) :
    statusStep (payloadOf s.fb.frame) s = .next
      (judgedState (statusResult (payloadOf s.fb.frame)).1 (statusResult (payloadOf s.fb.frame)).2 s) := by
  have hcons := status_cons_raw (payloadOf_frame_length s.fb)
  have hold : holdsReply (byteAt (payloadOf s.fb.frame) 0) (rawBytes (payloadOf s.fb.frame)) s = true :=
    holdsReply_iff.mpr ⟨hp, hS, hv, hpre, hcons⟩
  unfold statusStep statusResult
  rcases Status_ofByte_cases (byteAt (payloadOf s.fb.frame) 0) with
    ⟨h1, h2⟩ | ⟨h1, h2⟩ | ⟨h1, h2⟩ | ⟨h1, h2⟩ | ⟨h1, h2⟩ | ⟨-, -, -, -, -, h2⟩
  · rw [h2, h1]; rw [h1] at hold
    simp only [execStatusCommandSuccessful, hold, if_true, judgedState, hv, hpre]; rfl
  · rw [h2, h1]; rw [h1] at hold
    simp only [execStatusChecksumIncorrect, rejectReply, hold, if_true, judgedState, hv, hpre]; rfl
  · rw [h2, h1]; rw [h1] at hold
    simp only [execStatusParameterIncorrect, rejectReply, hold, if_true, judgedState, hv, hpre]; rfl
  · rw [h2, h1]; rw [h1] at hold
    simp only [execStatusUnrecognizedCommand, rejectReply, hold, if_true, judgedState, hv, hpre]; rfl
  · rw [h2, h1]; rw [h1] at hold
    simp only [execStatusInvalidCommand, rejectReply, hold, if_true, judgedState, hv, hpre]; rfl
  · rw [h2]
    simp only [execStatusUnknown, hold, h2, decide_true, Bool.and_self, if_true, judgedState, hv, hpre]; rfl

/-- DECODE in one equation: it records the judgement of the frame in FB by the class of the original command, and
stops only where the judgement has none (class `U`). -/
theorem decodeStep_eq {s : State} (hp : s.phase = .decoding) :
    decodeStep s =
      match judgement (replyClassOf s) s.fb.frame with
      | some (kind, code) => .next (judgedState kind code s)
      | none => .fault (.classUndefined s.cmdreg) := by
  unfold decodeStep judgement
  cases hv : verify s.fb.frame
  · simp only [if_true, judgedState, hv]; rfl
  cases hpre : preambleValid s.fb.frame
  · simp only [if_true, Bool.true_eq_false, if_false, judgedState, hv, hpre]; rfl
  simp only [Bool.true_eq_false, if_false]
  cases hc : replyClassOf s with
  | T => simp only [interpret, judgedState, hv, hpre]; rfl
  | I => simp only [interpret, judgedState, hv, hpre]; rfl
  | U => simp only [interpret, hv, hpre, Bool.true_eq_false, if_false]
  | S =>
    simp only [interpret, hv, hpre, Bool.true_eq_false, if_false]
    rw [statusStep_good hp hc hv hpre]

/-- Phase `Writing` in cases. -/
theorem writingStep_cases (s : State) :
    (s.ports.txErr = true ∧ writingStep s = .next (raise .transportError s.ports.txErrCode s)) ∨
    (s.ports.txErr = false ∧ s.ports.txReady = true ∧ s.idx.toNat < 26 ∧
      writingStep s = .next (txByte (s.fb.read s.idx.toNat) s)) ∨
    (s.ports.txErr = false ∧ s.ports.txReady = true ∧ 26 ≤ s.idx.toNat ∧
      writingStep s = .fault (.fbIndex s.idx)) ∨
    (s.ports.txErr = false ∧ s.ports.txReady = false ∧ writingStep s = .next s) := by
  unfold writingStep
  cases he : s.ports.txErr
  · cases hr : s.ports.txReady
    · simp
    · by_cases hi : s.idx.toNat < 26
      · simp [Memory.read?_of_lt hi, hi]
      · simp [Memory.read?, hi, Nat.le_of_not_lt hi]
  · simp

/-- The reading phases in cases. -/
theorem readingStep_cases (s : State) :
    (s.ports.rxErr = true ∧ readingStep s = .next (raise .transportError s.ports.rxErrCode s)) ∨
    (s.ports.rxErr = false ∧ s.ports.rxValid = true ∧ s.idx.toNat < 26 ∧
      readingStep s = .next (rxByte s.ports.rxData (s.fb.write s.idx.toNat s.ports.rxData) s)) ∨
    (s.ports.rxErr = false ∧ s.ports.rxValid = true ∧ 26 ≤ s.idx.toNat ∧
      readingStep s = .fault (.fbIndex s.idx)) ∨
    (s.ports.rxErr = false ∧ s.ports.rxValid = false ∧ readingStep s = .next s) := by
  unfold readingStep
  cases he : s.ports.rxErr
  · cases hr : s.ports.rxValid
    · simp
    · by_cases hi : s.idx.toNat < 26
      · simp [Memory.write?_of_lt _ hi, hi]
      · simp [Memory.write?, hi, Nat.le_of_not_lt hi]
  · simp

/-- A terminal phase in cases. -/
theorem ackStep_cases (s : State) :
    (s.ports.resReady = true ∧ ackStep s = .next (ack s)) ∨
    (s.ports.resReady = false ∧ ackStep s = .next s) := by
  unfold ackStep
  cases s.ports.resReady <;> simp

theorem exchange_terminal {s : State} (h : s.phase.terminal = true) : exchange s = ackStep s := by
  unfold exchange
  cases hp : s.phase <;> simp_all [Phase.terminal]

/-- One edge without the detour over the decoder: reset wins; in `Idle` an offered request goes to ACCEPT, whatever
its command byte; in every other phase the exchange takes its next step. -/
theorem edge_eq (s : State) :
    edge s =
      if s.ports.rst = true then .next (resetEdge s)
      else if s.phase = .idle then
        if s.ports.reqValid = true then
          .next (acceptStep s.ports.reqCmd s.ports.reqAddr s.ports.reqArgValid s.ports.reqArg s)
        else .next s
      else exchange s := by
  unfold edge
  cases hr : s.ports.rst
  · simp only [Bool.false_eq_true, if_false]
    by_cases hi : s.phase = .idle
    · simp only [hi, if_true]
      cases hv : s.ports.reqValid
      · simp [fetch, noInstr, hi, hv]
      · simp only [fetch, hi, hv, if_true, decode, portRequest, decodeRequest_requestBytes]
        cases hl : s.cmdCode.lookup s.ports.reqCmd with
        | none => simp [Except.toOption, noInstr, hi, hv]
        | some c =>
          simp only [Except.toOption]
          rw [exec_instr, request_idle hi, CmdCode.lookup_some hl]
          have hU : classOf s.cmdCode s.ports.reqCmd ≠ .U := by
            rw [← CmdCode.lookup_some hl]; exact classOf_code_ne_U _ _
          simp [acceptStep, hU]
    · simp only [hi, if_false]
      by_cases hf : s.phase = .refused
      · simp [fetch, hf, noInstr]
      · have hfetch : fetch s = (decode s.cmdCode .request (latchedRequest s)).toOption := by
          unfold fetch; split <;> simp_all
        rw [hfetch]
        simp only [decode, latchedRequest, decodeRequest_requestBytes]
        cases hl : s.cmdCode.lookup s.cmdreg with
        | none => simp [Except.toOption, noInstr, hi]
        | some c =>
          simp only [Except.toOption]
          rw [exec_instr, request_held (holdsRequest_iff.mpr ⟨(CmdCode.lookup_some hl).symm, rfl, rfl, rfl⟩)
            hi hf]
  · simp

/-- A step is an edge and the next sample of the ports. -/
theorem step_next_iff {s t : State} : step s = .next t ↔ ∃ u, edge s = .next u ∧ t = nextInputs u := by
  unfold step
  cases edge s <;> simp [eq_comm]

/-- Everything a step can do, in one list of cases (R180, R193, R230). -/
theorem step_cases {s t : State} (h : step s = .next t) :
    ∃ u, t = nextInputs u ∧
      ((s.ports.rst = true ∧ u = resetEdge s) ∨
       (s.ports.rst = false ∧
        ((s.phase = .idle ∧ s.ports.reqValid = false ∧ u = s) ∨
         (s.phase = .idle ∧ s.ports.reqValid = true ∧ classOf s.cmdCode s.ports.reqCmd = .U ∧
            u = raise .badRequest s.ports.reqCmd s) ∨
         (s.phase = .idle ∧ s.ports.reqValid = true ∧ classOf s.cmdCode s.ports.reqCmd ≠ .U ∧
            u = latch s.ports.reqCmd s.ports.reqAddr s.ports.reqArgValid s.ports.reqArg s) ∨
         (s.phase = .encoding ∧ u = encodeStep s) ∨
         (s.phase = .writing ∧ s.ports.txErr = true ∧ u = raise .transportError s.ports.txErrCode s) ∨
         (s.phase = .writing ∧ s.ports.txErr = false ∧ s.ports.txReady = true ∧ s.idx.toNat < 26 ∧
            u = txByte (s.fb.read s.idx.toNat) s) ∨
         (s.phase = .writing ∧ s.ports.txErr = false ∧ s.ports.txReady = false ∧ u = s) ∨
         ((s.phase = .awaitingReply ∨ s.phase = .reading) ∧ s.ports.rxErr = true ∧
            u = raise .transportError s.ports.rxErrCode s) ∨
         ((s.phase = .awaitingReply ∨ s.phase = .reading) ∧ s.ports.rxErr = false ∧ s.ports.rxValid = true ∧
            s.idx.toNat < 26 ∧ u = rxByte s.ports.rxData (s.fb.write s.idx.toNat s.ports.rxData) s) ∨
         ((s.phase = .awaitingReply ∨ s.phase = .reading) ∧ s.ports.rxErr = false ∧ s.ports.rxValid = false ∧
            u = s) ∨
         (s.phase = .decoding ∧ ∃ kind code, judgement (replyClassOf s) s.fb.frame = some (kind, code) ∧
            u = judgedState kind code s) ∨
         (s.phase.terminal = true ∧ s.ports.resReady = true ∧ u = ack s) ∨
         (s.phase.terminal = true ∧ s.ports.resReady = false ∧ u = s)))) := by
  obtain ⟨u, hu, rfl⟩ := step_next_iff.mp h
  refine ⟨u, rfl, ?_⟩
  rw [edge_eq] at hu
  cases hr : s.ports.rst
  · refine .inr ⟨rfl, ?_⟩
    simp only [hr, Bool.false_eq_true, if_false] at hu
    have hterm : s.phase.terminal = true →
        (s.ports.resReady = true ∧ u = ack s) ∨ (s.ports.resReady = false ∧ u = s) := by
      intro ht
      rw [if_neg (by intro hi; simp [hi, Phase.terminal] at ht), exchange_terminal ht] at hu
      rcases ackStep_cases s with ⟨h1, h2⟩ | ⟨h1, h2⟩ <;> rw [h2] at hu <;> simp_all
    have hread : exchange s = readingStep s → s.phase ≠ .idle →
        (s.ports.rxErr = true ∧ u = raise .transportError s.ports.rxErrCode s) ∨
        (s.ports.rxErr = false ∧ s.ports.rxValid = true ∧ s.idx.toNat < 26 ∧
          u = rxByte s.ports.rxData (s.fb.write s.idx.toNat s.ports.rxData) s) ∨
        (s.ports.rxErr = false ∧ s.ports.rxValid = false ∧ u = s) := by
      intro he hi
      rw [if_neg hi, he] at hu
      rcases readingStep_cases s with ⟨h1, h2⟩ | ⟨h1, h3, h4, h2⟩ | ⟨h1, h3, h4, h2⟩ | ⟨h1, h3, h2⟩ <;>
        rw [h2] at hu <;> simp_all
    cases hp : s.phase with
    | idle =>
      simp only [hp, if_true] at hu
      cases hv : s.ports.reqValid
      · simp_all
      · simp only [hv, if_true, Host.Outcome.next.injEq] at hu
        unfold acceptStep at hu
        split at hu <;> simp_all
    | encoding => simp_all [exchange]
    | writing =>
      simp only [hp, reduceCtorEq, if_false, exchange] at hu
      rcases writingStep_cases s with ⟨h1, h2⟩ | ⟨h1, h3, h4, h2⟩ | ⟨h1, h3, h4, h2⟩ | ⟨h1, h3, h2⟩ <;>
        rw [h2] at hu <;> simp_all
    | awaitingReply =>
      rcases hread (by simp [exchange, hp]) (by simp [hp]) with h1 | h1 | h1 <;> simp [h1]
    | reading =>
      rcases hread (by simp [exchange, hp]) (by simp [hp]) with h1 | h1 | h1 <;> simp [h1]
    | decoding =>
      simp only [hp, reduceCtorEq, if_false, exchange] at hu
      rw [decodeStep_eq hp] at hu
      split at hu
      · next kind code hj => simp_all
      · cases hu
    | success =>
      rcases hterm (by simp [hp, Phase.terminal]) with h1 | h1 <;> simp [h1, Phase.terminal]
    | protocolError =>
      rcases hterm (by simp [hp, Phase.terminal]) with h1 | h1 <;> simp [h1, Phase.terminal]
    | transportError =>
      rcases hterm (by simp [hp, Phase.terminal]) with h1 | h1 <;> simp [h1, Phase.terminal]
    | refused =>
      rcases hterm (by simp [hp, Phase.terminal]) with h1 | h1 <;> simp [h1, Phase.terminal]
  · simp_all

end Sys2Proof.Machine
end

