-- ==== Sys2Proof/Tests/Slice0.lean ====
section
/-! SUPPORT. The model's own tests. Expected results are the spec's vectors (95_test_vectors.md, named in each
comment) or written out by hand from the spec's encodings; and one witness for the hypotheses of each statement. -/

set_option autoImplicit false

namespace Sys2Proof.Tests

open Sys2Proof Sys2Proof.Machine

/-! ### Small states -/

/-- 26 bytes: a head, zeros, the last byte. -/
def frame26 (head : List Byte) (last : Byte) : List Byte := head ++ zeros (25 - head.length) ++ [last]

/-- Vector V1 (A6): SetOutputVoltage @0 5000. -/
def v1 : List Byte := frame26 [0xAA, 0x00, 0x23, 0x88, 0x13] 0x68

/-- The reply of A7: status 0x80, raw bytes zero. -/
def okReply : List Byte := frame26 [0xAA, 0x00, 0x12, 0x80] 0x3C

/-- A good reply with status 0xA0 (B9.7). -/
def rejReply : List Byte := frame26 [0xAA, 0x00, 0x12, 0xA0] 0x5C

/-- The exchange of SetOutputVoltage @0 5000 in this phase, at this index, with this frame buffer and these ports. -/
def at_ (ph : Phase) (idx : BitVec 5) (f : List Byte) (p : Inputs) : State :=
  { State.reset with
    fb := Memory.store [] 0 f, cmdreg := 0x23, argv := true, argreg := 5000, idx := idx, phase := ph, ports := p }

/-- A terminal phase with its result. -/
def done_ (ph : Phase) (k : ResKind) (code : Byte) (ck pre : Bool) (f : List Byte) (p : Inputs) : State :=
  { at_ ph 0 f p with resKind := k, resCode := code, ckOk := ck, preOk := pre }

/-- What a test looks at after an outcome, if it is a next state. -/
def look {α : Type} (f : State → α) : Host.Outcome State Fault Refusal → Option α
  | .next t => some (f t)
  | .fault _ => none
  | .refused _ => none

/-- Is the outcome a next state? -/
def isNext (o : Host.Outcome State Fault Refusal) : Bool := (look (fun _ => ()) o).isSome

/-- The registers a B8 or B9 vector shows. -/
structure Shown where
  phase : Phase
  idx : BitVec 5
  ckOk : Bool
  preOk : Bool
  kind : ResKind
  code : Byte
deriving DecidableEq, Repr

def shown (s : State) : Shown := ⟨s.phase, s.idx, s.ckOk, s.preOk, s.resKind, s.resCode⟩

/-- The request latches. -/
structure Latches where
  cmd : Byte
  addr : Byte
  argv : Bool
  arg : Word
deriving DecidableEq, Repr

def latches (s : State) : Latches := ⟨s.cmdreg, s.addrreg, s.argv, s.argreg⟩

/-! ### WellFormed: an ill-formed term for each check -/

theorem test_wf_refuses_short_raw :
    (Instr.statusCommandSuccessful (zeros 20)).wf = false ∧ (Instr.statusChecksumIncorrect (zeros 22)).wf = false ∧
    (Instr.statusParameterIncorrect []).wf = false ∧ (Instr.statusUnrecognizedCommand (zeros 20)).wf = false ∧
    (Instr.statusInvalidCommand (zeros 22)).wf = false ∧ (Instr.statusUnknown 0x81 (zeros 20)).wf = false := by
  decide

theorem test_wf_refuses_named_unknown :
    ∀ b ∈ [(0x80 : Byte), 0x90, 0xA0, 0xB0, 0xC0], (Instr.statusUnknown b (zeros 21)).wf = false := by
  decide

theorem test_wf_accepts : (Instr.statusUnknown 0x81 (zeros 21)).wf = true ∧
    (Instr.statusInvalidCommand (zeros 21)).wf = true ∧ (Instr.read 0 false 0).wf = true := by
  decide

/-! ### Decode: every constructor from a written-out word (R77, R78, R86; B4, B5) -/

theorem test_decode_requests :
    [0x20, 0x21, 0x22, 0x23, 0x24, 0x25, 0x26, 0x27, 0x28, 0x29, 0x2A, 0x2B, 0x2C, 0x2D, 0x2E, 0x2F, 0x31, 0x32,
      (0x37 : Byte)].map (fun b => (decode defaultCmdCode .request [b, 0x05, 0x04, 0x03, 0x02, 0x01, 1]).toOption) =
    [Instr.setRemoteMode, Instr.setOutputPower, Instr.setMaxOutputVoltage, Instr.setOutputVoltage,
      Instr.setOutputCurrent, Instr.setCommAddr, Instr.read, Instr.calibMode, Instr.readCalibState,
      Instr.calibVoltage, Instr.sendActualVoltage, Instr.calibCurrent, Instr.sendActualCurrent, Instr.saveCalibData,
      Instr.setCalibInfo, Instr.readCalibInfo, Instr.readProductInfo, Instr.restoreFactoryDefault,
      Instr.enableLocalKey].map (fun i => some (i 0x05 true 0x01020304)) := by
  decide

theorem test_decode_statuses :
    [0x80, 0x90, 0xA0, 0xB0, (0xC0 : Byte)].map
      (fun b => (decode defaultCmdCode .reply (b :: 0x07 :: zeros 20)).toOption) =
    [Instr.statusCommandSuccessful, Instr.statusChecksumIncorrect, Instr.statusParameterIncorrect,
      Instr.statusUnrecognizedCommand, Instr.statusInvalidCommand].map (fun i => some (i (0x07 :: zeros 20))) := by
  decide

theorem test_decode_unknown_statuses :
    ∀ b ∈ [(0x00 : Byte), 0x01, 0x7F, 0x81, 0x8F, 0x91, 0xD0, 0xFF],
      (decode defaultCmdCode .reply (b :: zeros 21)).toOption = some (.statusUnknown b (zeros 21)) := by
  decide

theorem test_decode_refuses :
    decode defaultCmdCode .request [0x30, 0, 0, 0, 0, 0, 0] = .error (.undefinedCommand 0x30) ∧
    decode defaultCmdCode .request [0x23, 0, 0, 0, 0, 0] = .error (.requestLength 6) ∧
    decode defaultCmdCode .request [0x23, 0, 0, 0, 0, 0, 2] = .error (.argValidByte 2) ∧
    decode defaultCmdCode .reply (0x80 :: zeros 20) = .error (.payloadLength 21) := by
  refine ⟨?_, ?_, ?_, ?_⟩ <;> rfl

set_option maxRecDepth 8000 in
/-- B4's classes and the count under it: T 1, I 1, S 17, U 237. -/
theorem test_class_vectors :
    [0x20, 0x23, 0x26, 0x2F, 0x31, 0x32, 0x37, 0x00, 0x1F, 0x30, 0x33, 0x36, 0x38, 0x80, 0xAA, (0xFF : Byte)].map
      (classOf defaultCmdCode) = [.S, .S, .T, .S, .I, .S, .S, .U, .U, .U, .U, .U, .U, .U, .U, .U] ∧
    (List.range 256).countP (fun n => classOf defaultCmdCode (BitVec.ofNat 8 n) == .U) = 237 := by
  decide

theorem test_table_words :
    decodeTableWord 8 0x20 = some (.setRemoteMode 0 false 0) ∧
    decodeTableWord 8 0x37 = some (.enableLocalKey 0 false 0) ∧
    decodeTableWord 8 0x90 = some (.statusChecksumIncorrect (zeros 21)) ∧
    decodeTableWord 8 0 = some (.statusUnknown 0 (zeros 21)) := by
  decide

/-! ### The codec (B1, B2, B3) -/

theorem test_cksum_vectors :
    (encodeFrame 0 0 (zeros 22)).map (byteAt · 25) = some 0xAA ∧
    (encodeFrame 0xFF 0xFF (List.replicate 22 0xFF)).map (byteAt · 25) = some 0x92 ∧
    (encodeFrame 0x56 0 (zeros 22)).map (byteAt · 25) = some 0x00 ∧
    (encodeFrame 0x80 0x80 (List.replicate 22 0x80)).map (byteAt · 25) = some 0xAA := by
  decide

/-- B1.7 to B1.12. -/
theorem test_verify_vectors :
    verify (v1.set 3 0x89) = false ∧ verify (v1.set 0 0x2A) = false ∧ preambleValid (v1.set 0 0x2A) = false ∧
    verify (v1.set 25 0x69) = false ∧ verify ((v1.set 3 0x13).set 4 0x88) = true ∧
    verify ((v1.set 3 0x89).set 4 0x12) = true ∧ verify ((v1.set 5 0x01).set 25 0x69) = true := by
  decide

/-- B2.4, B2.6, B2.7, B2.8. -/
theorem test_packarg_vectors :
    packArg true 0x12345678 = [0x78, 0x56, 0x34, 0x12] ++ zeros 18 ∧
    packArg true 0x80000000 = [0x00, 0x00, 0x00, 0x80] ++ zeros 18 ∧
    packArg true 0x00000100 = [0x00, 0x01, 0x00, 0x00] ++ zeros 18 ∧
    packArg false 0xDEADBEEF = zeros 22 ∧ unpackArg (packArg true 0xFFFFFFFF) = 0xFFFFFFFF := by
  decide

/-- B3.1 to B3.10. -/
theorem test_request_frames_1 :
    [Command.setRemoteMode, .setOutputPower, .setMaxOutputVoltage, .setOutputVoltage, .setOutputCurrent, .setCommAddr,
      .calibMode, .calibVoltage].zipWith
        (fun c x => commandFrame defaultCmdCode c 0 true x) [1, 1, 20000, 5000, 1500, 5, 1, 1] =
    [frame26 [0xAA, 0, 0x20, 1] 0xCB, frame26 [0xAA, 0, 0x21, 1] 0xCC, frame26 [0xAA, 0, 0x22, 0x20, 0x4E] 0x3A, v1,
      frame26 [0xAA, 0, 0x24, 0xDC, 0x05] 0xAF, frame26 [0xAA, 0, 0x25, 5] 0xD4, frame26 [0xAA, 0, 0x27, 1] 0xD2,
      frame26 [0xAA, 0, 0x29, 1] 0xD4] := by
  decide

/-- B3.11 to B3.15, B3.19, B3.20. -/
theorem test_request_frames_2 :
    [Command.sendActualVoltage, .calibCurrent, .sendActualCurrent, .setCalibInfo, .enableLocalKey].zipWith
        (fun c x => commandFrame defaultCmdCode c 0 true x) [12345, 2, 1000, 0x31323334, 1] =
    [frame26 [0xAA, 0, 0x2A, 0x39, 0x30] 0x3D, frame26 [0xAA, 0, 0x2B, 2] 0xD7,
      frame26 [0xAA, 0, 0x2C, 0xE8, 0x03] 0xC1, frame26 [0xAA, 0, 0x2E, 0x34, 0x33, 0x32, 0x31] 0xA2,
      frame26 [0xAA, 0, 0x37, 1] 0xE2] ∧
    commandFrame defaultCmdCode .setOutputVoltage 5 true 0xFFFFFFFF =
      frame26 [0xAA, 0x05, 0x23, 0xFF, 0xFF, 0xFF, 0xFF] 0xCE := by
  decide

/-- The requests without an argument of B3, and B3.26. -/
theorem test_request_frames_3 :
    [Command.read, .readCalibState, .saveCalibData, .readCalibInfo, .readProductInfo, .restoreFactoryDefault].map
        (fun c => commandFrame defaultCmdCode c 0 false 0) =
    [frame26 [0xAA, 0, 0x26] 0xD0, frame26 [0xAA, 0, 0x28] 0xD2, frame26 [0xAA, 0, 0x2D] 0xD7,
      frame26 [0xAA, 0, 0x2F] 0xD9, frame26 [0xAA, 0, 0x31] 0xDB, frame26 [0xAA, 0, 0x32] 0xDC] ∧
    commandFrame defaultCmdCode .read 0 true 7 = frame26 [0xAA, 0, 0x26, 7] 0xD7 := by
  decide

/-- The request line of B3.22, from the notation of R84 to its frame. -/
theorem test_request_line :
    (RequestLine.mk .setOutputVoltage (some 0xFF) (some 0x01020304)).instr = .setOutputVoltage 0xFF true 0x01020304 ∧
    (RequestLine.mk .read none none).instr = .read 0 false 0 := by
  decide

/-! ### The records (B6, B7) -/

/-- The positional payload of B6.4 and B7.4: byte `k` is `k + 1`. -/
def positional : List Byte := (List.range 22).map (fun k => BitVec.ofNat 8 (k + 1))

/-- B6.4. -/
theorem test_telemetry_positional :
    telemetry positional =
      { presCurrent := 0x0201, presVoltage := 0x06050403, state := 0x07, calibLow := 0x08, calibHigh := 0x09,
        maxVoltage := 0x0D0C0B0A, outVoltage := 0x11100F0E, reserved := [0x12, 0x13, 0x14, 0x15, 0x16] } := by
  decide

/-- B6.1 and B6.5 to B6.10: the bits of the state byte. -/
theorem test_telemetry_state_bits :
    [0x8D, 0x01, 0x02, 0x04, 0x08, 0x70, (0x80 : Byte)].map
      (fun b => let t := telemetry (zeros 6 ++ b :: zeros 15)
        (t.output, t.heat, t.mode, t.stateRsvd, t.operation)) =
    [(true, false, 3, 0, true), (true, false, 0, 0, false), (false, true, 0, 0, false), (false, false, 1, 0, false),
      (false, false, 2, 0, false), (false, false, 0, 7, false), (false, false, 0, 0, true)] := by
  decide

/-- B7.4. -/
theorem test_identity_positional :
    identity positional =
      { model := [1, 2, 3, 4, 5], patch := 6, fwVersion := 7, serial := [8, 9, 10, 11, 12, 13, 14, 15, 16, 17],
        reserved := [18, 19, 20, 21, 22] } := by
  decide

/-! ### Single steps (B8) -/

/-- B8.1. -/
theorem test_step_accept :
    look (fun t => (shown t, latches t))
      (step { State.reset with ports := offer 0x23 0 true 5000 }) =
    some (⟨.encoding, 0, false, false, .none, 0⟩, ⟨0x23, 0, true, 5000⟩) := by
  decide

/-- B8.2. -/
theorem test_step_encode :
    look (fun t => (t.fb.frame, t.phase, t.idx)) (step (at_ .encoding 0 (zeros 26) .quiet)) =
      some (v1, .writing, 0) := by
  decide

/-- B8.3 and B8.5. -/
theorem test_step_tx :
    look (fun t => (t.phase, t.idx, t.txStream)) (step (at_ .writing 0 v1 txReadyInput)) =
      some (.writing, 1, [0xAA]) ∧
    look (fun t => (t.phase, t.idx, t.txStream)) (step (at_ .writing 25 v1 txReadyInput)) =
      some (.awaitingReply, 0, [0x68]) := by
  decide

/-- B8.6 and B8.11: a failure wins over a byte. -/
theorem test_step_transport_failures :
    look (fun t => (shown t, t.txStream)) (step (at_ .writing 7 v1 { txReadyInput with txErr := true, txErrCode := 5 }))
      = some (⟨.transportError, 0, false, false, .errTransport, 0x05⟩, []) ∧
    look (fun t => (shown t, t.rxTaken))
      (step (at_ .reading 10 v1 { rxInput 0x11 with rxErr := true, rxErrCode := 0x6E }))
      = some (⟨.transportError, 0, false, false, .errTransport, 0x6E⟩, []) := by
  decide

/-- B8.8 and B8.10: the first byte is stored whatever its value, byte 25 ends the phase. -/
theorem test_step_rx :
    look (fun t => (t.phase, t.idx, t.fb.read 0)) (step (at_ .awaitingReply 0 v1 (rxInput 0x55))) =
      some (.reading, 1, 0x55) ∧
    look (fun t => (t.phase, t.idx, t.fb.read 25)) (step (at_ .reading 25 v1 (rxInput 0x3C))) =
      some (.decoding, 0, 0x3C) := by
  decide

/-- B8.4, B8.9, B8.13, B8.16: waiting edges. -/
theorem test_step_waits :
    step (at_ .writing 1 v1 .quiet) = .next (at_ .writing 1 v1 .quiet) ∧
    step (at_ .awaitingReply 0 v1 .quiet) = .next (at_ .awaitingReply 0 v1 .quiet) ∧
    step (done_ .success .okRaw 0x80 true true okReply .quiet) =
      .next (done_ .success .okRaw 0x80 true true okReply .quiet) ∧
    step (at_ .idle 0 v1 { rxInput 1 with txErr := true, rxErr := true }) =
      .next (at_ .idle 0 v1 { rxInput 1 with txErr := true, rxErr := true }) := by
  refine ⟨?_, ?_, ?_, ?_⟩ <;> rfl

/-- B8.14. -/
theorem test_step_ack :
    look (fun t => (shown t, latches t, t.fb.frame))
      (step (done_ .success .okRaw 0x80 true true okReply takeInput)) =
      some (⟨.idle, 0, false, false, .none, 0⟩, ⟨0x23, 0, true, 5000⟩, okReply) := by
  decide

/-- B8.15. -/
theorem test_step_refused :
    look (fun t => (shown t, latches t)) (step (at_ .idle 0 v1 (offer 0x30 0 false 0))) =
      some (⟨.refused, 0, false, false, .errBadRequest, 0x30⟩, ⟨0x23, 0, true, 5000⟩) := by
  decide

/-- B8.17: the control registers after a reset edge; FB and the latches are free values and not looked at. -/
theorem test_step_reset :
    look shown (step (at_ .reading 3 v1 { Inputs.quiet with rst := true })) =
      some ⟨.idle, 0, false, false, .none, 0⟩ := by
  decide

/-! ### DECODE (B9) -/

/-- What DECODE leaves for a reply to a command with this code. -/
def judged (cmd : Byte) (f : List Byte) : Option Shown :=
  look shown (step { at_ .decoding 0 f .quiet with cmdreg := cmd })

/-- B9.1 to B9.7. -/
theorem test_decode_order :
    judged 0x21 okReply = some ⟨.success, 0, true, true, .okRaw, 0x80⟩ ∧
    judged 0x21 (okReply.set 25 0x3D) = some ⟨.protocolError, 0, false, true, .errChecksum, 0⟩ ∧
    judged 0x21 (okReply.set 0 0xAB) = some ⟨.protocolError, 0, false, false, .errChecksum, 0⟩ ∧
    judged 0x21 ((okReply.set 0 0xAB).set 25 0x3D) = some ⟨.protocolError, 0, true, false, .errMalformed, 0⟩ ∧
    judged 0x21 (frame26 [0, 0, 0x12, 0xA0] 0xB2) = some ⟨.protocolError, 0, true, false, .errMalformed, 0⟩ ∧
    judged 0x21 (rejReply.set 25 0) = some ⟨.protocolError, 0, false, true, .errChecksum, 0⟩ ∧
    judged 0x21 rejReply = some ⟨.protocolError, 0, true, true, .errRejected, 0xA0⟩ := by
  decide

/-- B9.8 to B9.12. -/
theorem test_decode_by_original_command :
    judged 0x26 rejReply = some ⟨.success, 0, true, true, .okTelemetry, 0⟩ ∧
    judged 0x31 rejReply = some ⟨.success, 0, true, true, .okIdentity, 0⟩ ∧
    judged 0x21 (frame26 [0xAA, 0x07, 0x99, 0x80] 0xCA) = some ⟨.success, 0, true, true, .okRaw, 0x80⟩ ∧
    judged 0x21 (zeros 26) = some ⟨.protocolError, 0, true, false, .errMalformed, 0⟩ ∧
    judged 0x21 (List.replicate 26 0xFF) = some ⟨.protocolError, 0, false, false, .errChecksum, 0⟩ := by
  decide

/-- A8: 0xB0 with non-zero raw bytes; B5.14: the raw bytes behind 0x80. -/
theorem test_status_scenarios :
    judged 0x21 ([0xAA, 0x00, 0x12, 0xB0] ++ (List.range 21).map (fun k => BitVec.ofNat 8 (k + 1)) ++ [0x53]) =
      some ⟨.protocolError, 0, true, true, .errRejected, 0xB0⟩ ∧
    look State.result? (step (at_ .decoding 0 (frame26 [0xAA, 0x00, 0x12, 0x80, 0x88, 0x13] 0xD7) .quiet)) =
      some (some (.okRaw { address := 0, rcmd := 0x12, payload := [0x80, 0x88, 0x13] ++ zeros 19 }
        ([0x88, 0x13] ++ zeros 19))) := by
  decide

/-! ### withFetchWord: the very next step runs the word's instruction -/

theorem test_fetch_words :
    look id (step (State.reset.withFetchWord 8 0x24)) =
      look nextInputs (exec (.setOutputCurrent 0 false 0) (State.reset.withFetchWord 8 0x24)) ∧
    look shown (step (State.reset.withFetchWord 8 0x24)) = some ⟨.encoding, 0, false, false, .none, 0⟩ ∧
    look id (step (State.reset.withFetchWord 8 0xB0)) =
      look nextInputs (exec (.statusUnrecognizedCommand (zeros 21)) (State.reset.withFetchWord 8 0xB0)) ∧
    look shown (step (State.reset.withFetchWord 8 0xB0)) =
      some ⟨.protocolError, 0, true, true, .errRejected, 0xB0⟩ := by
  decide

/-! ### Witnesses: concrete inputs that meet all hypotheses of a statement together

A statement of the same name stands in Certificates/Slice0/Obligations.lean; where its clauses split an input, each
clause has its own conjunct, at a boundary of its range. -/

/-- The default instance meets R10. -/
theorem witness_CmdCode_wf : defaultCmdCode.wf = true := by decide

theorem witness_ChecksumIsRunningSum :
    v1.length = 26 ∧ (((v1.set 3 0x13).set 4 0x88).take 25).Perm (v1.take 25) := by decide

theorem witness_EncodeFrameLayout :
    (packArg true 5000).length = 22 ∧ encodeFrame 0 0x23 (packArg true 5000) = some v1 := by decide

theorem witness_WrongPayloadLengthRefused :
    (zeros 21).length ≠ 22 ∧ (zeros 23).length ≠ 22 ∧ encodeFrame 0 0 (zeros 21) = none ∧
      encodeFrame 0 0 (zeros 23) = none := by decide

theorem witness_FrameRoundTrip : v1.length = 26 ∧ verify v1 = true ∧ byteAt v1 0 = 0xAA := by decide

theorem witness_ChecksumSensitivity :
    v1.length = 26 ∧ verify v1 = true ∧ verify (v1.set 0 (byteAt v1 0 ^^^ BitVec.ofNat 8 (2 ^ 7))) = false ∧
      verify (v1.set 24 (byteAt v1 24 ^^^ BitVec.ofNat 8 (2 ^ 0))) = false ∧ (0x69 : Byte) ≠ byteAt v1 25 := by
  decide

theorem witness_payload_of_22 : positional.length = 22 ∧ unpackArg positional = 0x04030201 := by decide

theorem witness_MemReadMemWriteLittleEndian :
    (Memory.store [] 0 v1).wf = true ∧ memRead (Memory.store [] 0 v1) 0 1 = some 0xAA ∧
      memRead (Memory.store [] 0 v1) 25 1 = some 0x68 ∧ (memRead (Memory.store [] 0 v1) 0 26).isSome = true ∧
      memRead (Memory.store [] 0 v1) 3 2 = some 0x1388 ∧ (memWrite (Memory.store [] 0 v1) 22 4 0).isSome = true ∧
      memRead (Memory.store [] 0 v1) 25 2 = none ∧ memWrite (Memory.store [] 0 v1) 26 1 0 = none := by
  decide

theorem witness_StepKeepsBufferCanonical :
    (at_ .reading 25 v1 (rxInput 0)).fb.wf = true ∧ isNext (step (at_ .reading 25 v1 (rxInput 0))) = true := by
  decide

theorem witness_DecodeOfEncode :
    defaultCmdCode.wf = true ∧ (Instr.read 0xFF true 0xFFFFFFFF).wf = true ∧
      (Instr.statusUnknown 0xFF (List.replicate 21 0xFF)).wf = true := by decide

theorem witness_EncodeOfDecode :
    decode defaultCmdCode .request [0x26, 0xFF, 0xFF, 0xFF, 0xFF, 0xFF, 0] = .ok (.read 0xFF false 0xFFFFFFFF) ∧
      decode defaultCmdCode .reply (0xC0 :: List.replicate 21 0xFF) =
        .ok (.statusInvalidCommand (List.replicate 21 0xFF)) := ⟨rfl, rfl⟩

theorem witness_OutputsShowRegisters :
    (at_ .writing 25 v1 .quiet).ports.rst = false ∧ (outputs (at_ .writing 25 v1 .quiet)).txValid = true ∧
      (outputs (at_ .writing 25 v1 .quiet)).txData = some 0x68 ∧
      (outputs (at_ .writing 25 v1 .quiet)).resPayload.extractLsb' (8 * 1) 8 = 0x13 := by decide

theorem witness_ResetEdgeFromAnyPhase : (at_ .reading 3 v1 { Inputs.quiet with rst := true }).ports.rst = true := rfl

theorem witness_StepRunsDecodedRequest :
    (at_ .idle 0 v1 (offer 0x26 1 false 0)).ports.rst = false ∧
      decode defaultCmdCode .request (portRequest (at_ .idle 0 v1 (offer 0x26 1 false 0)).ports) =
        .ok (.read 1 false 0) ∧
      decode defaultCmdCode .request (latchedRequest (at_ .writing 25 v1 .quiet)) =
        .ok (.setOutputVoltage 0 true 5000) := ⟨rfl, rfl, rfl⟩

theorem witness_StepRunsDecodedStatusRow :
    (at_ .decoding 0 okReply .quiet).ports.rst = false ∧ replyClassOf (at_ .decoding 0 okReply .quiet) = .S ∧
      verify (at_ .decoding 0 okReply .quiet).fb.frame = true ∧
      preambleValid (at_ .decoding 0 okReply .quiet).fb.frame = true := by decide

theorem witness_AcceptStep :
    classOf defaultCmdCode (at_ .idle 0 v1 (offer 0x38 0 false 0)).ports.reqCmd = .U ∧
      classOf defaultCmdCode (at_ .idle 0 v1 (offer 0x37 0 false 0)).ports.reqCmd ≠ .U := by decide

/-- The request SetOutputVoltage @0 5000 is in the latches: CommandBuildsFrame, CommandSendsByte (bytes 0 and 25),
CommandStoresReplyByte (bytes 0, 1 and 25). -/
theorem witness_command_transfer :
    holdsRequest (defaultCmdCode.code .setOutputVoltage) 0 true 5000 (at_ .encoding 0 okReply .quiet) = true ∧
    (at_ .encoding 0 okReply .quiet).fb.wf = true ∧
    isNext (exec (.setOutputVoltage 0 true 5000) (at_ .writing 0 v1 txReadyInput)) = true ∧
    isNext (exec (.setOutputVoltage 0 true 5000) (at_ .writing 25 v1 txReadyInput)) = true ∧
    isNext (exec (.setOutputVoltage 0 true 5000) (at_ .awaitingReply 0 v1 (rxInput 0xAA))) = true ∧
    isNext (exec (.setOutputVoltage 0 true 5000) (at_ .reading 1 v1 (rxInput 0xAA))) = true ∧
    isNext (exec (.setOutputVoltage 0 true 5000) (at_ .reading 25 v1 (rxInput 0xAA))) = true := by decide

theorem witness_CommandTransportFailure :
    (at_ .writing 0 v1 { txReadyInput with txErr := true }).ports.txErr = true ∧
    (at_ .awaitingReply 0 v1 (rxErrInput 1)).ports.rxErr = true ∧
    holdsRequest 0x23 0 true 5000 (at_ .reading 25 v1 (rxErrInput 1)) = true := by decide

/-- The last clause of CommandWaits: a request that waits behind another exchange. -/
theorem witness_CommandWaits :
    holdsRequest (defaultCmdCode.code .read) 0 false 0 (at_ .writing 1 v1 .quiet) = false ∧
    holdsRequest (defaultCmdCode.code .setOutputVoltage) 0 true 5000 (at_ .writing 1 v1 .quiet) = true ∧
    (done_ .refused .errBadRequest 0x30 false false v1 .quiet).phase.terminal = true := by decide

theorem witness_CommandJudgesBadFrame :
    verify (at_ .decoding 0 (okReply.set 25 0) .quiet).fb.frame = false ∧
    verify (at_ .decoding 0 (zeros 26) .quiet).fb.frame = true ∧
    (at_ .decoding 0 (zeros 26) .quiet).fb.read 0 ≠ 0xAA := by decide

/-- StatusCommandTakesReply at 0x80, at a rejection and at an unknown status; ReadDeliversTelemetry and
ReadProductInfoDeliversIdentity at the same reply. -/
theorem witness_command_judges_reply :
    verify (at_ .decoding 0 okReply .quiet).fb.frame = true ∧ (at_ .decoding 0 okReply .quiet).fb.read 0 = 0xAA ∧
    verify (at_ .decoding 0 rejReply .quiet).fb.frame = true ∧
    verify (at_ .decoding 0 (frame26 [0xAA, 0, 0, 0x81] 0x2B) .quiet).fb.frame = true ∧
    holdsRequest (defaultCmdCode.code .read) 0 true 5000 { at_ .decoding 0 rejReply .quiet with cmdreg := 0x26 } =
      true ∧
    holdsRequest (defaultCmdCode.code .readProductInfo) 0 true 5000
      { at_ .decoding 0 rejReply .quiet with cmdreg := 0x31 } = true := by decide

theorem witness_CommandReturns :
    look shown (exec (.setOutputVoltage 0 true 5000) (done_ .success .okRaw 0x80 true true okReply takeInput)) =
      some ⟨.idle, 0, false, false, .none, 0⟩ ∧
    look shown (exec (.setOutputVoltage 0 true 5000)
      (done_ .protocolError .errChecksum 0 false true v1 takeInput)) = some ⟨.idle, 0, false, false, .none, 0⟩ ∧
    look shown (exec (.setOutputVoltage 0 true 5000)
      (done_ .transportError .errTransport 7 false false v1 takeInput)) = some ⟨.idle, 0, false, false, .none, 0⟩ := by
  decide

/-- CommandFrame, StatusRowFrame: a next state is there. -/
theorem witness_frames :
    isNext (exec (.setOutputVoltage 0 true 5000) (at_ .reading 3 v1 (rxInput 9))) = true ∧
    isNext (exec (.statusCommandSuccessful (zeros 21)) (at_ .decoding 0 okReply .quiet)) = true := by decide

/-- StatusSuccessfulRow, StatusRejectionRows (each of the four), StatusUnknownRow. -/
theorem witness_status_rows :
    holdsReply 0x80 (zeros 21) (at_ .decoding 0 okReply .quiet) = true ∧
    holdsReply 0x90 (zeros 21) (at_ .decoding 0 (frame26 [0xAA, 0, 0, 0x90] 0x3A) .quiet) = true ∧
    holdsReply 0xA0 (zeros 21) (at_ .decoding 0 rejReply .quiet) = true ∧
    holdsReply 0xB0 (zeros 21) (at_ .decoding 0 (frame26 [0xAA, 0, 0, 0xB0] 0x5A) .quiet) = true ∧
    holdsReply 0xC0 (zeros 21) (at_ .decoding 0 (frame26 [0xAA, 0, 0, 0xC0] 0x6A) .quiet) = true ∧
    holdsReply 0x81 (zeros 21) (at_ .decoding 0 (frame26 [0xAA, 0, 0, 0x81] 0x2B) .quiet) = true := by decide

/-- `set_output_voltage 5000` offered in `Idle`, with a transport that takes 26 bytes. -/
def operationStart : State :=
  { at_ .idle 0 okReply (offer 0x23 0 true 5000) with pending := .quiet :: List.replicate 26 txReadyInput }

theorem witness_OperationsSendTheirFrames :
    operationStart.phase = .idle ∧ operationStart.fb.wf = true ∧ operationStart.ports.rst = false ∧
      operationStart.ports.reqValid = true ∧
      decode operationStart.cmdCode .request (portRequest operationStart.ports) =
        .ok ((Operation.setOutputVoltage 5000).expand 0) ∧
      operationStart.pending = .quiet :: (List.replicate 26 txReadyInput ++ []) ∧
      (∀ p ∈ List.replicate 26 txReadyInput, p.takesByte) :=
  ⟨rfl, by decide, rfl, rfl, rfl, rfl, fun p hp => by rw [List.eq_of_mem_replicate hp]; exact ⟨rfl, rfl, rfl⟩⟩

theorem witness_ControlResetHasR30 : ControlReset (at_ .idle 0 v1 (offer 0x26 1 false 0)) :=
  ⟨rfl, rfl, rfl, rfl, rfl, rfl⟩

/-! The invariant holds in a state of every phase, the transfer phases at both ends of IDX: StepKeepsInv,
InvNeverStops, ControlTransferTable, ExchangeProgresses, StepKeepsEventsInOrder. -/

theorem witness_Inv_idle : Inv (at_ .idle 0 okReply (offer 0x26 1 false 0)) :=
  ⟨by constructor <;> decide, by decide, by decide⟩

theorem witness_Inv_encoding : Inv { at_ .encoding 0 okReply .quiet with trace := [.accepted 0x23 0 true 5000] } :=
  ⟨by constructor <;> decide, by decide, by decide⟩

theorem witness_Inv_writing_first : Inv (at_ .writing 0 v1 txReadyInput) :=
  ⟨by constructor <;> decide, by decide, by decide⟩

theorem witness_Inv_writing_last : Inv (at_ .writing 25 v1 txReadyInput) :=
  ⟨by constructor <;> decide, by decide, by decide⟩

theorem witness_Inv_awaitingReply : Inv (at_ .awaitingReply 0 v1 (rxInput 0xAA)) :=
  ⟨by constructor <;> decide, by decide, by decide⟩

theorem witness_Inv_reading_first : Inv (at_ .reading 1 v1 (rxInput 0)) :=
  ⟨by constructor <;> decide, by decide, by decide⟩

theorem witness_Inv_reading_last : Inv (at_ .reading 25 v1 (rxInput 0)) :=
  ⟨by constructor <;> decide, by decide, by decide⟩

theorem witness_Inv_decoding : Inv (at_ .decoding 0 okReply .quiet) :=
  ⟨by constructor <;> decide, by decide, by decide⟩

theorem witness_Inv_success : Inv (done_ .success .okRaw 0x80 true true okReply takeInput) :=
  ⟨by constructor <;> decide, by decide, by decide⟩

theorem witness_Inv_protocolError : Inv (done_ .protocolError .errRejected 0xA0 true true rejReply takeInput) :=
  ⟨by constructor <;> decide, by decide, by decide⟩

theorem witness_Inv_transportError : Inv (done_ .transportError .errTransport 7 false false v1 takeInput) :=
  ⟨by constructor <;> decide, by decide, by decide⟩

theorem witness_Inv_refused : Inv (done_ .refused .errBadRequest 0x30 false false v1 takeInput) :=
  ⟨by constructor <;> decide, by decide, by decide⟩

/-- ExchangeProgresses at the state of witness_Inv_writing_last, and the next states of the invariant statements. -/
theorem witness_ExchangeProgresses :
    Cooperates (at_ .writing 25 v1 txReadyInput) ∧ (at_ .writing 25 v1 txReadyInput).ports.rst = false ∧
      isNext (step (at_ .writing 25 v1 txReadyInput)) = true := ⟨.inl rfl, rfl, by decide⟩

theorem witness_StepKeepsResultIsJudgement :
    ResultIsJudgement (done_ .success .okRaw 0x80 true true okReply .quiet) ∧
      isNext (step (done_ .success .okRaw 0x80 true true okReply .quiet)) = true :=
  ⟨fun _ => by decide, by decide⟩

theorem witness_StepKeepsEventsInOrder :
    EventsInOrder { at_ .encoding 0 okReply .quiet with trace := [.accepted 0x23 0 true 5000] } ∧
      isNext (step { at_ .encoding 0 okReply .quiet with trace := [.accepted 0x23 0 true 5000] }) = true :=
  ⟨rfl, by decide⟩

/-- The start of an exchange SetOutputVoltage @0 5000 answered by A7's reply. -/
def exchangeStart : State :=
  { at_ .idle 0 rejReply (offer 0x23 0 true 5000) with pending := exchangeInputs (.frame okReply) }

theorem witness_ExchangeDeliversRequestResult :
    exchangeStart.fb.wf = true ∧ exchangeStart.cmdCode.wf = true ∧ exchangeStart.phase = .idle ∧
      exchangeStart.ports.rst = false ∧ exchangeStart.ports.reqValid = true ∧
      exchangeStart.ports.reqCmd = exchangeStart.cmdCode.code .setOutputVoltage ∧
      exchangeStart.ports.reqAddr = 0 ∧ exchangeStart.ports.reqArgValid = true ∧
      exchangeStart.ports.reqArg = 5000 ∧ okReply.length = 26 ∧
      CarriesExchange okReply exchangeStart.pending := by
  refine ⟨by decide, by decide, rfl, rfl, rfl, rfl, rfl, rfl, rfl, by decide, .quiet, .quiet,
    List.replicate 26 txReadyInput, okReply.map rxInput, rfl, rfl, rfl, rfl, ?_, ?_⟩
  · intro p hp
    rw [List.eq_of_mem_replicate hp]
    exact ⟨rfl, rfl, rfl⟩
  · rw [List.forall₂_map_left_iff]
    exact List.forall₂_same.mpr fun b _ => ⟨rfl, rfl, rfl, rfl⟩

theorem witness_SilentTransportBlocksForever :
    (at_ .writing 3 v1 .quiet).pending = [] ∧ (at_ .writing 3 v1 .quiet).ports.txReady = false ∧
      (at_ .reading 25 v1 .quiet).ports.rxValid = false := by decide

/-- Another environment of the same block: the receive side differs while it is writing. -/
theorem witness_OnlyHeardInputsMatter :
    SameBlock (at_ .writing 3 v1 txReadyInput)
      { at_ .writing 3 v1 { txReadyInput with rxValid := true, rxErr := true } with pending := [.quiet] } ∧
    SameHeard .writing txReadyInput { txReadyInput with rxValid := true, rxErr := true } ∧
    isNext (step (at_ .writing 3 v1 txReadyInput)) = true :=
  ⟨⟨rfl, rfl, rfl, rfl, rfl, rfl, rfl, rfl, rfl, rfl, rfl⟩, ⟨rfl, rfl, rfl, rfl⟩, by decide⟩

/-- LatchesWrittenOnlyByAccept, BufferWrittenOnlyByEncodeAndRx, FlagsWrittenOnlyByDecodeAndAck,
StreamsMoveOnlyByTxAndRx: a step outside the named places. -/
theorem witness_step_outside :
    isNext (step (at_ .awaitingReply 0 v1 (rxInput 0x55))) = true ∧
    (at_ .awaitingReply 0 v1 (rxInput 0x55)).ports.rst = false ∧
    (at_ .awaitingReply 0 v1 (rxInput 0x55)).phase.terminal = false := by decide

theorem witness_ResultHeldUntilTaken :
    (done_ .protocolError .errRejected 0xA0 true true rejReply .quiet).phase.terminal = true ∧
    (done_ .protocolError .errRejected 0xA0 true true rejReply .quiet).ports.resReady = false := by decide

theorem witness_BlockHoldsItsOffers :
    (outputs (at_ .writing 25 v1 .quiet)).txValid = true ∧
    look (fun t => t.ports.rst) (step (at_ .writing 25 v1 .quiet)) = some false ∧
    (outputs (done_ .success .okRaw 0x80 true true okReply .quiet)).resValid = true ∧
    look (fun t => t.ports.rst) (step (done_ .success .okRaw 0x80 true true okReply .quiet)) = some false := by decide

/-- The two replies of B9.1 and B9.10. -/
theorem witness_ReplyAddressAndCommandByteIgnored :
    verify (at_ .decoding 0 okReply .quiet).fb.frame = true ∧
    verify (at_ .decoding 0 (frame26 [0xAA, 0x07, 0x99, 0x80] 0xCA) .quiet).fb.frame = true ∧
    isNext (step (at_ .decoding 0 (frame26 [0xAA, 0x07, 0x99, 0x80] 0xCA) .quiet)) = true ∧
    (∀ k < 25, 3 ≤ k → (at_ .decoding 0 (frame26 [0xAA, 0x07, 0x99, 0x80] 0xCA) .quiet).fb.read k =
      (at_ .decoding 0 okReply .quiet).fb.read k) := by decide

end Sys2Proof.Tests
end

section
/-! SUPPORT. What R30 says, and what keeps it: one lemma per state operation. -/

namespace Sys2Proof.Machine

open Sys2Proof

/-! ### judgedState: one lemma per field (its frame, and the registers DECODE writes) -/

@[simp] theorem judgedState_fb (k : ResKind) (b : Byte) (s : State) : (judgedState k b s).fb = s.fb := rfl
@[simp] theorem judgedState_cmdreg (k : ResKind) (b : Byte) (s : State) :
    (judgedState k b s).cmdreg = s.cmdreg := rfl
@[simp] theorem judgedState_addrreg (k : ResKind) (b : Byte) (s : State) :
    (judgedState k b s).addrreg = s.addrreg := rfl
@[simp] theorem judgedState_argreg (k : ResKind) (b : Byte) (s : State) :
    (judgedState k b s).argreg = s.argreg := rfl
@[simp] theorem judgedState_argv (k : ResKind) (b : Byte) (s : State) : (judgedState k b s).argv = s.argv := rfl
@[simp] theorem judgedState_idx (k : ResKind) (b : Byte) (s : State) :
    (judgedState k b s).idx = if k.success then s.idx else 0 := rfl
@[simp] theorem judgedState_phase (k : ResKind) (b : Byte) (s : State) :
    (judgedState k b s).phase = if k.success then .success else .protocolError := rfl
@[simp] theorem judgedState_ckOk (k : ResKind) (b : Byte) (s : State) :
    (judgedState k b s).ckOk = verify s.fb.frame := rfl
@[simp] theorem judgedState_preOk (k : ResKind) (b : Byte) (s : State) :
    (judgedState k b s).preOk = preambleValid s.fb.frame := rfl
@[simp] theorem judgedState_resKind (k : ResKind) (b : Byte) (s : State) : (judgedState k b s).resKind = k := rfl
@[simp] theorem judgedState_resCode (k : ResKind) (b : Byte) (s : State) : (judgedState k b s).resCode = b := rfl
@[simp] theorem judgedState_cmdCode (k : ResKind) (b : Byte) (s : State) :
    (judgedState k b s).cmdCode = s.cmdCode := rfl
@[simp] theorem judgedState_ports (k : ResKind) (b : Byte) (s : State) : (judgedState k b s).ports = s.ports := rfl
@[simp] theorem judgedState_pending (k : ResKind) (b : Byte) (s : State) :
    (judgedState k b s).pending = s.pending := rfl
@[simp] theorem judgedState_trace (k : ResKind) (b : Byte) (s : State) :
    (judgedState k b s).trace = .judged k b :: s.trace := rfl
@[simp] theorem judgedState_freeCount (k : ResKind) (b : Byte) (s : State) :
    (judgedState k b s).freeCount = s.freeCount := rfl

/-! ### The judgement of a reply -/

/-- The judgement has a kind for every frame unless the original command is of class `U`. -/
theorem judgement_isSome {cls : ReplyClass} (f : List Byte) (h : cls ≠ .U) :
    ∃ kind code, judgement cls f = some (kind, code) := by
  unfold judgement
  split
  · exact ⟨_, _, rfl⟩
  split
  · exact ⟨_, _, rfl⟩
  cases cls with
  | T | I | S => exact ⟨_, _, rfl⟩
  | U => exact absurd rfl h

theorem statusKind_cases (st : Status) : (statusKind st).success = true ∨ (statusKind st).isProtocol := by
  cases st <;> simp [statusKind, ResKind.success, ResKind.isProtocol]

/-- A judgement is a success, of a frame whose checksum and preamble are good, or a protocol error. -/
theorem judgement_cases {cls : ReplyClass} {f : List Byte} {kind : ResKind} {code : Byte}
    (h : judgement cls f = some (kind, code)) :
    (kind.success = true ∧ verify f = true ∧ preambleValid f = true) ∨ kind.isProtocol := by
  unfold judgement at h
  split at h
  · cases h; exact .inr (.inl rfl)
  next hck =>
  split at h
  · cases h; exact .inr (.inr (.inr (.inr rfl)))
  next hpre =>
  have hgood : verify f = true ∧ preambleValid f = true := by simpa using And.intro hck hpre
  cases cls with
  | T => cases h; exact .inl ⟨rfl, hgood⟩
  | I => cases h; exact .inl ⟨rfl, hgood⟩
  | S =>
    cases h
    exact (statusKind_cases _).imp (fun hs => ⟨hs, hgood⟩) id
  | U => cases h

/-! ### The edges of an exchange and of a step, as cases with names -/

/-- One edge of the exchange in progress (R180, R182 to R189): the state after it. -/
inductive ExchangeMove (s : State) : State → Prop where
  | wait : ExchangeMove s s
  | encode (hp : s.phase = .encoding) : ExchangeMove s (encodeStep s)
  | txFail (hp : s.phase = .writing) (herr : s.ports.txErr = true) :
      ExchangeMove s (raise .transportError s.ports.txErrCode s)
  | tx (hp : s.phase = .writing) (herr : s.ports.txErr = false) (hready : s.ports.txReady = true)
      (hi : s.idx.toNat < 26) : ExchangeMove s (txByte (s.fb.read s.idx.toNat) s)
  | rxFail (hp : s.phase = .awaitingReply ∨ s.phase = .reading) (herr : s.ports.rxErr = true) :
      ExchangeMove s (raise .transportError s.ports.rxErrCode s)
  | rx (hp : s.phase = .awaitingReply ∨ s.phase = .reading) (herr : s.ports.rxErr = false)
      (hvalid : s.ports.rxValid = true) (hi : s.idx.toNat < 26) :
      ExchangeMove s (rxByte s.ports.rxData (s.fb.write s.idx.toNat s.ports.rxData) s)
  | judge {kind : ResKind} {code : Byte} (hp : s.phase = .decoding)
      (hj : judgement (replyClassOf s) s.fb.frame = some (kind, code)) : ExchangeMove s (judgedState kind code s)
  | take (ht : s.phase.terminal = true) (hready : s.ports.resReady = true) : ExchangeMove s (ack s)

/-- One edge of the block, before the next sample of the ports (R181, R206, R230, and the edges above). -/
inductive EdgeMove (s : State) : State → Prop where
  | reset (hr : s.ports.rst = true) : EdgeMove s (resetEdge s)
  | refuse (hr : s.ports.rst = false) (hp : s.phase = .idle) (hv : s.ports.reqValid = true)
      (hU : classOf s.cmdCode s.ports.reqCmd = .U) : EdgeMove s (raise .badRequest s.ports.reqCmd s)
  | accept (hr : s.ports.rst = false) (hp : s.phase = .idle) (hv : s.ports.reqValid = true)
      (hU : classOf s.cmdCode s.ports.reqCmd ≠ .U) :
      EdgeMove s (latch s.ports.reqCmd s.ports.reqAddr s.ports.reqArgValid s.ports.reqArg s)
  | exchange {u : State} (hr : s.ports.rst = false) (h : ExchangeMove s u) : EdgeMove s u

theorem readingStep_move {s u : State} (hp : s.phase = .awaitingReply ∨ s.phase = .reading)
    (h : readingStep s = .next u) : ExchangeMove s u := by
  rcases readingStep_cases s with ⟨herr, he⟩ | ⟨herr, hv, hi, he⟩ | ⟨-, -, -, he⟩ | ⟨-, -, he⟩ <;>
    rw [he] at h <;> cases h
  · exact .rxFail hp herr
  · exact .rx hp herr hv hi
  · exact .wait

theorem ackStep_move {s u : State} (ht : s.phase.terminal = true) (h : ackStep s = .next u) :
    ExchangeMove s u := by
  rcases ackStep_cases s with ⟨hready, he⟩ | ⟨-, he⟩ <;> rw [he] at h <;> cases h
  · exact .take ht hready
  · exact .wait

/-- Everything an edge of the exchange in progress can do. -/
theorem exchange_move {s u : State} (h : exchange s = .next u) : ExchangeMove s u := by
  unfold exchange at h
  cases hp : s.phase <;> simp only [hp] at h
  case idle => cases h; exact .wait
  case encoding => cases h; exact .encode hp
  case writing =>
    rcases writingStep_cases s with ⟨herr, he⟩ | ⟨herr, hr, hi, he⟩ | ⟨-, -, -, he⟩ | ⟨-, -, he⟩ <;>
      rw [he] at h <;> cases h
    · exact .txFail hp herr
    · exact .tx hp herr hr hi
    · exact .wait
  case awaitingReply => exact readingStep_move (.inl hp) h
  case reading => exact readingStep_move (.inr hp) h
  case decoding =>
    rw [decodeStep_eq hp] at h
    split at h
    next hj => cases h; exact .judge hp hj
    next => cases h
  all_goals exact ackStep_move (by rw [hp]; rfl) h

/-- Everything a step can do. -/
theorem step_move {s t : State} (h : step s = .next t) : ∃ u, t = nextInputs u ∧ EdgeMove s u := by
  obtain ⟨u, hu, rfl⟩ := step_next_iff.mp h
  refine ⟨u, rfl, ?_⟩
  rw [edge_eq] at hu
  split at hu
  · next hr => rw [← Host.Outcome.next.inj hu]; exact .reset hr
  next hr =>
  have hr : s.ports.rst = false := by simpa using hr
  split at hu
  · next hp =>
    split at hu
    · next hv =>
      cases hu
      unfold acceptStep
      split
      · next hU => exact .refuse hr hp hv hU
      · next hU => exact .accept hr hp hv hU
    · cases hu; exact .exchange hr .wait
  · exact .exchange hr (exchange_move hu)

/-! ### R30 in two forms: a phase without a result, and a terminal phase with one -/

/-- No result is shown: kind, code and both flags have their reset values. -/
structure NoResult (s : State) : Prop where
  kind : s.resKind = .none
  code : s.resCode = 0
  ckOk : s.ckOk = false
  preOk : s.preOk = false

/-- R30 (b), (f) and (g): outside the terminal phases no result is shown. -/
theorem R30.noResult {s : State} (h : R30 s) (ht : s.phase.terminal = false) : NoResult s := by
  have hflags := h.flagsClear (fun e => by simp [e, Phase.terminal] at ht)
    (fun e => by simp [e, Phase.terminal] at ht)
  exact ⟨h.noKind ht, h.noCode (h.noKind ht), hflags.1, hflags.2⟩

theorem NoResult.congr {s t : State} (h : NoResult s) (hk : t.resKind = s.resKind) (hc : t.resCode = s.resCode)
    (hck : t.ckOk = s.ckOk) (hpre : t.preOk = s.preOk) : NoResult t :=
  ⟨hk.trans h.kind, hc.trans h.code, hck.trans h.ckOk, hpre.trans h.preOk⟩

theorem Phase.code_le (p : Phase) : p.code.toNat ≤ 9 := by cases p <;> decide

/-- R30 (c): the range of IDX in each phase. -/
def IdxInRange (p : Phase) (i : BitVec 5) : Prop :=
  match p with
  | .writing => i.toNat ≤ 25
  | .reading => 1 ≤ i.toNat ∧ i.toNat ≤ 25
  | .idle | .encoding | .awaitingReply | .decoding | .success | .protocolError | .transportError | .refused => i = 0

theorem R30.idxInRange {s : State} (h : R30 s) : IdxInRange s.phase s.idx := by
  have hw := h.writingIdx
  have hr := h.readingIdx
  have ho := h.otherIdx
  unfold IdxInRange
  split <;> simp_all

theorem IdxInRange.writing {p : Phase} {i : BitVec 5} (h : IdxInRange p i) : p = .writing → i.toNat ≤ 25 := by
  rintro rfl; exact h

theorem IdxInRange.reading {p : Phase} {i : BitVec 5} (h : IdxInRange p i) :
    p = .reading → 1 ≤ i.toNat ∧ i.toNat ≤ 25 := by
  rintro rfl; exact h

theorem IdxInRange.other {p : Phase} {i : BitVec 5} (h : IdxInRange p i) :
    p ≠ .writing → p ≠ .reading → i = 0 := by
  intro hw hr
  unfold IdxInRange at h
  split at h
  · exact absurd rfl hw
  · exact absurd rfl hr
  all_goals exact h

/-- In the phases that use IDX it names a byte of FB. -/
theorem IdxInRange.lt {p : Phase} {i : BitVec 5} (h : IdxInRange p i) : i.toNat < 26 := by
  unfold IdxInRange at h
  split at h
  · omega
  · omega
  all_goals simp [h]

/-- The terminal phase a result kind belongs to (R27). -/
def ResKind.endPhase : ResKind → Option Phase
  | .none => Option.none
  | .okRaw | .okTelemetry | .okIdentity => some .success
  | .errChecksum | .errRejected | .errUnknownStatus | .errMalformed => some .protocolError
  | .errTransport => some .transportError
  | .errBadRequest => some .refused

theorem ResKind.endPhase_success_iff {k : ResKind} : k.endPhase = some .success ↔ k.isSuccess := by
  cases k <;> simp [ResKind.endPhase, ResKind.isSuccess]

theorem ResKind.endPhase_protocolError_iff {k : ResKind} :
    k.endPhase = some .protocolError ↔ k.isProtocol := by
  cases k <;> simp [ResKind.endPhase, ResKind.isProtocol]

theorem ResKind.endPhase_transportError_iff {k : ResKind} :
    k.endPhase = some .transportError ↔ k = .errTransport := by
  cases k <;> simp [ResKind.endPhase]

theorem ResKind.endPhase_refused_iff {k : ResKind} : k.endPhase = some .refused ↔ k = .errBadRequest := by
  cases k <;> simp [ResKind.endPhase]

theorem ResKind.terminal_of_endPhase {k : ResKind} {p : Phase} (h : k.endPhase = some p) :
    p.terminal = true := by
  cases k <;> cases h <;> rfl

theorem ResKind.endPhase_of_success {k : ResKind} (h : k.success = true) : k.endPhase = some .success := by
  cases k <;> simp_all [ResKind.endPhase, ResKind.success]

theorem ResKind.success_of_isProtocol {k : ResKind} (h : k.isProtocol) : k.success = false := by
  rcases h with rfl | rfl | rfl | rfl <;> rfl

theorem Error.endPhase_kind (e : Error) : e.kind.endPhase = some e.terminal := by cases e <;> rfl

/-- R30 in a phase that is not terminal. -/
theorem R30.of_noResult {s : State} (ht : s.phase.terminal = false) (hn : NoResult s)
    (hidx : IdxInRange s.phase s.idx) (hcls : s.phase ≠ .idle → replyClassOf s ≠ .U)
    (hfr : s.phase = .writing → s.fb.frame = requestFrame s) : R30 s := by
  have hne : ∀ p : Phase, p.terminal = true → s.phase ≠ p := fun p hp e => by simp [← e, ht] at hp
  exact
    { phaseRange := s.phase.code_le
      successKind := by simp [hn.kind, hne .success rfl]
      protocolKind := by simp [hn.kind, hne .protocolError rfl]
      transportKind := by simp [hn.kind, hne .transportError rfl]
      refusedKind := by simp [hn.kind, hne .refused rfl]
      noKind := fun _ => hn.kind
      writingIdx := hidx.writing
      readingIdx := hidx.reading
      otherIdx := hidx.other
      classDefined := fun hi _ => hcls hi
      frameBuilt := hfr
      flagsClear := fun _ _ => ⟨hn.ckOk, hn.preOk⟩
      flagsSet := fun e => absurd e (hne .success rfl)
      noCode := fun _ => hn.code }

/-- R30 in a terminal phase. -/
theorem R30.of_endPhase {s : State} (hend : s.resKind.endPhase = some s.phase) (hidx : s.idx = 0)
    (hcls : s.phase ≠ .refused → replyClassOf s ≠ .U)
    (hclear : s.phase ≠ .success → s.phase ≠ .protocolError → s.ckOk = false ∧ s.preOk = false)
    (hset : s.phase = .success → s.ckOk = true ∧ s.preOk = true) : R30 s := by
  have ht := ResKind.terminal_of_endPhase hend
  have hkind : ∀ p, s.phase = p ↔ s.resKind.endPhase = some p := fun p => by simp [hend]
  exact
    { phaseRange := s.phase.code_le
      successKind := (hkind _).trans ResKind.endPhase_success_iff
      protocolKind := (hkind _).trans ResKind.endPhase_protocolError_iff
      transportKind := (hkind _).trans ResKind.endPhase_transportError_iff
      refusedKind := (hkind _).trans ResKind.endPhase_refused_iff
      noKind := fun hf => by simp [ht] at hf
      writingIdx := fun _ => by simp [hidx]
      readingIdx := fun e => by simp [e, Phase.terminal] at ht
      otherIdx := fun _ _ => hidx
      classDefined := fun _ hr => hcls hr
      frameBuilt := fun e => by simp [e, Phase.terminal] at ht
      flagsClear := hclear
      flagsSet := hset
      noCode := fun e => by simp [e, ResKind.endPhase] at hend }

end Sys2Proof.Machine
end

section
/-! R30 (a) to (g), one lemma per step of the exchange (R181 to R189, R210, R230). -/

namespace Sys2Proof.Machine

open Sys2Proof

/-- R41's control values are a phase without a result, with IDX 0. -/
theorem r30_of_controlReset {s : State} (h : ControlReset s) : R30 s := by
  obtain ⟨hp, hi, hck, hpre, hk, hc⟩ := h
  exact R30.of_noResult (by simp [hp, Phase.terminal]) ⟨hk, hc, hck, hpre⟩ (by simp [hp, hi, IdxInRange])
    (fun h => absurd hp h) (fun h => by simp [hp] at h)

theorem resetEdge_controlReset (s : State) : ControlReset (resetEdge s) := by
  constructor <;> simp

/-- R189: a result taken leaves R41's control values. -/
theorem ack_controlReset {s : State} (hidx : s.idx = 0) : ControlReset (ack s) := by
  constructor <;> simp [hidx]

theorem R30.idx_of_terminal {s : State} (h : R30 s) (ht : s.phase.terminal = true) : s.idx = 0 :=
  h.otherIdx (fun e => by simp [e, Phase.terminal] at ht) (fun e => by simp [e, Phase.terminal] at ht)

/-- R206: a refused request. -/
theorem r30_raise_badRequest {s : State} (h : R30 s) (hp : s.phase = .idle) (cmd : Byte) :
    R30 (raise .badRequest cmd s) := by
  have hn := h.noResult (by simp [hp, Phase.terminal])
  exact R30.of_endPhase (Error.endPhase_kind .badRequest) rfl (fun hr => absurd rfl hr)
    (fun _ _ => ⟨hn.ckOk, hn.preOk⟩) (fun e => by simp [Error.terminal] at e)

/-- R184, R187: a failure of the transport, in a phase in which the exchange uses it. -/
theorem r30_raise_transportError {s : State} (h : R30 s) (ht : s.phase.terminal = false)
    (hi : s.phase ≠ .idle) (code : Byte) : R30 (raise .transportError code s) := by
  have hn := h.noResult ht
  have hr : s.phase ≠ .refused := fun e => by simp [e, Phase.terminal] at ht
  exact R30.of_endPhase (Error.endPhase_kind .transportError) rfl (fun _ => h.classDefined hi hr)
    (fun _ _ => ⟨hn.ckOk, hn.preOk⟩) (fun e => by simp [Error.terminal] at e)

/-- R181: a defined command is latched. -/
theorem r30_latch {s : State} (h : R30 s) (hp : s.phase = .idle) {cmd : Byte}
    (hcls : classOf s.cmdCode cmd ≠ .U) (a : Byte) (v : Bool) (x : Word) : R30 (latch cmd a v x s) := by
  have hn := h.noResult (by simp [hp, Phase.terminal])
  have hidx := h.idxInRange
  rw [hp] at hidx
  exact R30.of_noResult rfl (hn.congr rfl rfl rfl rfl) hidx (fun _ => hcls)
    (fun e => by simp at e)

/-- R182: ENCODE builds the frame that R30 (e) speaks of. -/
theorem r30_encodeStep {s : State} (h : R30 s) (hp : s.phase = .encoding) (hwf : s.fb.wf = true) :
    R30 (encodeStep s) := by
  have hn := h.noResult (by simp [hp, Phase.terminal])
  exact R30.of_noResult rfl (hn.congr rfl rfl rfl rfl) (by simp [IdxInRange])
    (fun _ => h.classDefined (by simp [hp]) (by simp [hp]))
    (fun _ => Memory.frame_store hwf (requestFrame_length s))

/-- Another byte of an index up to 25 that is not the last: the count goes up by one and stays a byte of FB. -/
theorem idx_succ {i : BitVec 5} (hi : i.toNat ≤ 25) (hlast : i ≠ 25) :
    1 ≤ (i + 1).toNat ∧ (i + 1).toNat ≤ 25 := by
  bv_omega

/-- R183: a byte handed over. -/
theorem r30_txByte {s : State} (h : R30 s) (hp : s.phase = .writing) (b : Byte) : R30 (txByte b s) := by
  have hn : NoResult (txByte b s) := (h.noResult (by simp [hp, Phase.terminal])).congr
    (by simp) (by simp) (by simp) (by simp)
  have hcls : replyClassOf (txByte b s) ≠ .U := by
    simpa [replyClassOf] using h.classDefined (by simp [hp]) (by simp [hp])
  by_cases hlast : s.idx = 25
  · have hp' : (txByte b s).phase = .awaitingReply := (txByte_phase b s).trans (if_pos hlast)
    exact R30.of_noResult (by rw [hp']; rfl) hn (by simp [hlast, IdxInRange])
      (fun _ => hcls) (fun e => nomatch hp'.symm.trans e)
  · have hp' : (txByte b s).phase = .writing := (txByte_phase b s).trans ((if_neg hlast).trans hp)
    have hi := idx_succ (h.writingIdx hp) hlast
    exact R30.of_noResult (by rw [hp']; rfl) hn (by rw [hp', txByte_idx, if_neg hlast]; exact hi.2)
      (fun _ => hcls) (fun _ => by simpa [requestFrame] using h.frameBuilt hp)

/-- R185: a byte stored. -/
theorem r30_rxByte {s : State} (h : R30 s) (hp : s.phase = .awaitingReply ∨ s.phase = .reading)
    (b : Byte) (m : Memory) : R30 (rxByte b m s) := by
  have ht : s.phase.terminal = false ∧ s.phase ≠ .idle ∧ s.phase ≠ .refused := by
    rcases hp with hp | hp <;> simp [hp, Phase.terminal]
  have hn : NoResult (rxByte b m s) := (h.noResult ht.1).congr (by simp) (by simp) (by simp) (by simp)
  have hcls : replyClassOf (rxByte b m s) ≠ .U := by
    simpa [replyClassOf] using h.classDefined ht.2.1 ht.2.2
  by_cases hlast : s.idx = 25
  · have hp' : (rxByte b m s).phase = .decoding := (rxByte_phase b m s).trans (if_pos hlast)
    exact R30.of_noResult (by rw [hp']; rfl) hn (by simp [hlast, IdxInRange])
      (fun _ => hcls) (fun e => nomatch hp'.symm.trans e)
  · have hp' : (rxByte b m s).phase = .reading := (rxByte_phase b m s).trans (if_neg hlast)
    have hi := idx_succ (Nat.le_of_lt_succ h.idxInRange.lt) hlast
    exact R30.of_noResult (by rw [hp']; rfl) hn (by rw [hp', rxByte_idx, if_neg hlast]; exact hi)
      (fun _ => hcls) (fun e => nomatch hp'.symm.trans e)

/-- R188: a reply judged. -/
theorem r30_judgedState {s : State} (h : R30 s) (hp : s.phase = .decoding) {kind : ResKind} {code : Byte}
    (hj : judgement (replyClassOf s) s.fb.frame = some (kind, code)) : R30 (judgedState kind code s) := by
  have hidx : s.idx = 0 := h.otherIdx (by simp [hp]) (by simp [hp])
  have hcls : replyClassOf s ≠ .U := h.classDefined (by simp [hp]) (by simp [hp])
  rcases judgement_cases hj with ⟨hs, hck, hpre⟩ | hprot
  · have hp' : (judgedState kind code s).phase = .success := by simp [hs]
    exact R30.of_endPhase (by rw [hp']; exact ResKind.endPhase_of_success hs) (by simp [hidx])
      (fun _ => hcls) (fun e => absurd hp' e) (fun _ => ⟨hck, hpre⟩)
  · have hp' : (judgedState kind code s).phase = .protocolError := by
      simp [ResKind.success_of_isProtocol hprot]
    exact R30.of_endPhase (by rw [hp']; exact ResKind.endPhase_protocolError_iff.mpr hprot) (by simp [hidx])
      (fun _ => hcls) (fun _ e => absurd hp' e) (fun e => nomatch hp'.symm.trans e)

/-- R30 says nothing of the input ports. -/
theorem r30_nextInputs {s : State} (h : R30 s) : R30 (nextInputs s) := by
  obtain ⟨h1, h2, h3, h4, h5, h6, h7, h8, h9, h10, h11, h12, h13, h14⟩ := h
  constructor <;> simpa

/-- R30 is kept by every edge of an exchange that starts from a canonical frame buffer. -/
theorem r30_exchangeMove {s u : State} (hR : R30 s) (hwf : s.fb.wf = true) (h : ExchangeMove s u) : R30 u := by
  cases h with
  | wait => exact hR
  | encode hp => exact r30_encodeStep hR hp hwf
  | txFail hp _ => exact r30_raise_transportError hR (by simp [hp, Phase.terminal]) (by simp [hp]) _
  | tx hp _ _ _ => exact r30_txByte hR hp _
  | rxFail hp _ =>
    have hrun : s.phase.terminal = false ∧ s.phase ≠ .idle := by
      rcases hp with hp | hp <;> simp [hp, Phase.terminal]
    exact r30_raise_transportError hR hrun.1 hrun.2 _
  | rx hp _ _ _ => exact r30_rxByte hR hp _ _
  | judge hp hj => exact r30_judgedState hR hp hj
  | take ht _ => exact r30_of_controlReset (ack_controlReset (hR.idx_of_terminal ht))

/-- R30 is kept by every step that starts from a canonical frame buffer. -/
theorem step_r30 {s t : State} (hR : R30 s) (hwf : s.fb.wf = true) (h : step s = .next t) : R30 t := by
  obtain ⟨u, rfl, hu⟩ := step_move h
  apply r30_nextInputs
  cases hu with
  | reset _ => exact r30_of_controlReset (resetEdge_controlReset s)
  | refuse _ hp _ _ => exact r30_raise_badRequest hR hp _
  | accept _ hp _ hcls => exact r30_latch hR hp hcls _ _ _
  | exchange _ h => exact r30_exchangeMove hR hwf h

/-- The canonical form of the frame buffer is kept by every edge of an exchange: ENCODE stores 26 bytes from index 0,
RX one byte below 26. -/
theorem fb_wf_exchangeMove {s u : State} (hwf : s.fb.wf = true) (h : ExchangeMove s u) : u.fb.wf = true := by
  cases h with
  | encode _ => exact Memory.store_wf hwf (by simp)
  | rx _ _ _ hi => rw [rxByte_fb]; exact Memory.write_wf _ hwf hi
  | wait | txFail _ _ | rxFail _ _ | tx _ _ _ _ | judge _ _ | take _ _ => simpa using hwf

/-- The canonical form of the frame buffer is kept by every step. -/
theorem step_fb_wf {s t : State} (hwf : s.fb.wf = true) (h : step s = .next t) : t.fb.wf = true := by
  obtain ⟨u, rfl, hu⟩ := step_move h
  rw [nextInputs_fb]
  cases hu with
  | reset _ => rw [resetEdge_fb]; exact Memory.store_wf Memory.wf_nil (by simp)
  | refuse _ _ _ _ | accept _ _ _ _ => simpa using hwf
  | exchange _ h => exact fb_wf_exchangeMove hwf h

end Sys2Proof.Machine
end

section
/-! What an edge leaves unchanged (R21, R22, R26, R63, R65). -/

namespace Sys2Proof.Machine

open Sys2Proof

/-- The frame of one edge of an exchange: which registers it may change, and when. -/
structure MoveFrame (s u : State) : Prop where
  cmdCode : u.cmdCode = s.cmdCode
  ports : u.ports = s.ports
  pending : u.pending = s.pending
  freeCount : u.freeCount = s.freeCount
  latches : u.cmdreg = s.cmdreg ∧ u.addrreg = s.addrreg ∧ u.argv = s.argv ∧ u.argreg = s.argreg
  fb : ∀ k, s.phase ≠ .encoding →
    ((s.phase = .awaitingReply ∨ s.phase = .reading) → s.ports.rxErr = false → s.ports.rxValid = true →
      k ≠ s.idx.toNat) → u.fb.read k = s.fb.read k
  flags : s.phase ≠ .decoding → ¬ (s.phase.terminal = true ∧ s.ports.resReady = true) →
    u.ckOk = s.ckOk ∧ u.preOk = s.preOk
  result : s.phase = .idle ∨ s.phase = .encoding → u.resKind = s.resKind ∧ u.resCode = s.resCode
  trace : u.trace = s.trace ∨ ∃ e, u.trace = e :: s.trace

theorem MoveFrame.refl (s : State) : MoveFrame s s :=
  ⟨rfl, rfl, rfl, rfl, ⟨rfl, rfl, rfl, rfl⟩, fun _ _ _ => rfl, fun _ _ => ⟨rfl, rfl⟩,
    fun _ => ⟨rfl, rfl⟩, .inl rfl⟩

/-- An error entry outside `Idle` and `Encoding` changes result, IDX and PHASE only. -/
theorem moveFrame_raise {s : State} (hi : s.phase ≠ .idle) (he : s.phase ≠ .encoding) (e : Error) (info : Byte) :
    MoveFrame s (raise e info s) where
  cmdCode := rfl
  ports := rfl
  pending := rfl
  freeCount := rfl
  latches := ⟨rfl, rfl, rfl, rfl⟩
  fb := fun _ _ _ => rfl
  flags := fun _ _ => ⟨rfl, rfl⟩
  result := fun h => absurd h (not_or.mpr ⟨hi, he⟩)
  trace := .inr ⟨_, rfl⟩

/-- The frame of every edge of an exchange. -/
theorem moveFrame_exchangeMove {s u : State} (h : ExchangeMove s u) : MoveFrame s u := by
  cases h with
  | wait => exact .refl s
  | encode hp => constructor <;> simp [hp]
  | txFail hp _ => exact moveFrame_raise (by simp [hp]) (by simp [hp]) _ _
  | tx hp _ _ _ => constructor <;> simp
  | rxFail hp _ => exact moveFrame_raise (by rintro e; simp [e] at hp) (by rintro e; simp [e] at hp) _ _
  | rx hp herr hvalid _ =>
    constructor
    case fb =>
      intro k _ hk
      rw [rxByte_fb, Memory.read_write_other _ _ (Ne.symm (hk hp herr hvalid))]
    all_goals simp
  | judge hp _ => constructor <;> simp [hp]
  | take ht hready =>
    constructor
    case flags => exact fun _ h => absurd ⟨ht, hready⟩ h
    case result => rintro (e | e) <;> simp [e, Phase.terminal] at ht
    all_goals simp

/-- Outside reset a step is an edge of the exchange in progress, a refusal, or the acceptance of a defined command. -/
theorem step_outside_reset {s t : State} (h : step s = .next t) (hr : s.ports.rst = false) :
    ∃ u, t = nextInputs u ∧ (MoveFrame s u ∨ (s.phase = .idle ∧ s.ports.reqValid = true ∧
      ((classOf s.cmdCode s.ports.reqCmd = .U ∧ u = raise .badRequest s.ports.reqCmd s) ∨
       (classOf s.cmdCode s.ports.reqCmd ≠ .U ∧
        u = latch s.ports.reqCmd s.ports.reqAddr s.ports.reqArgValid s.ports.reqArg s)))) := by
  obtain ⟨u, rfl, hu⟩ := step_move h
  refine ⟨u, rfl, ?_⟩
  cases hu with
  | reset h1 => rw [hr] at h1; cases h1
  | refuse _ hp hv hU => exact .inr ⟨hp, hv, .inl ⟨hU, rfl⟩⟩
  | accept _ hp hv hU => exact .inr ⟨hp, hv, .inr ⟨hU, rfl⟩⟩
  | exchange _ h => exact .inl (moveFrame_exchangeMove h)

/-- A command's edge waits, accepts in `Idle`, or is an edge of the exchange in progress. -/
theorem request_move {c : Command} {a : Byte} {v : Bool} {x : Word} {s t : State}
    (h : request c a v x s = .next t) :
    MoveFrame s t ∨ (s.phase = .idle ∧ t = latch (s.cmdCode.code c) a v x s) := by
  rcases request_cases (c := c) (a := a) (v := v) (x := x) (s := s) with he | ⟨hp, he⟩ | ⟨-, -, -, he⟩ <;>
    rw [he] at h
  · cases h; exact .inl (.refl s)
  · cases h; exact .inr ⟨hp, rfl⟩
  · exact .inl (moveFrame_exchangeMove (exchange_move h))

/-- The parameter of R10 is no register: no step changes it. -/
theorem step_cmdCode {s t : State} (h : step s = .next t) : t.cmdCode = s.cmdCode := by
  obtain ⟨u, rfl, hu⟩ := step_move h
  rw [nextInputs_cmdCode]
  cases hu with
  | reset _ => exact resetEdge_cmdCode s
  | refuse _ _ _ _ | accept _ _ _ _ => rfl
  | exchange _ h => exact (moveFrame_exchangeMove h).cmdCode


end Sys2Proof.Machine
end

section
/-! The invariant of the whole machine, and the result as the judgement of the frame received. -/

namespace Sys2Proof.Machine

open Sys2Proof

/-- Under R30 an edge of the exchange in progress has a next state: IDX names a byte of FB, and the class of the
original command is not `U`. -/
theorem exchange_next {s : State} (hR : R30 s) : ∃ u, exchange s = .next u := by
  have hi : s.idx.toNat < 26 := hR.idxInRange.lt
  have hread : ∃ u, readingStep s = .next u := by
    rcases readingStep_cases s with ⟨-, he⟩ | ⟨-, -, -, he⟩ | ⟨-, -, hge, -⟩ | ⟨-, -, he⟩
    · exact ⟨_, he⟩
    · exact ⟨_, he⟩
    · omega
    · exact ⟨_, he⟩
  have hack : ∃ u, ackStep s = .next u := by
    rcases ackStep_cases s with ⟨-, he⟩ | ⟨-, he⟩ <;> exact ⟨_, he⟩
  unfold exchange
  cases hp : s.phase with
  | idle | encoding => exact ⟨_, rfl⟩
  | writing =>
    rcases writingStep_cases s with ⟨-, he⟩ | ⟨-, -, -, he⟩ | ⟨-, -, hge, -⟩ | ⟨-, -, he⟩
    · exact ⟨_, he⟩
    · exact ⟨_, he⟩
    · omega
    · exact ⟨_, he⟩
  | awaitingReply | reading => exact hread
  | decoding =>
    obtain ⟨kind, code, hj⟩ := judgement_isSome s.fb.frame (hR.classDefined (by simp [hp]) (by simp [hp]))
    exact ⟨judgedState kind code s, by simp only [decodeStep_eq hp, hj]⟩
  | success | protocolError | transportError | refused => exact hack

/-- Outside `Success` and `ProtocolError` no judgement is claimed. -/
theorem resultIsJudgement_of_phase {s : State} (hs : s.phase ≠ .success) (hp : s.phase ≠ .protocolError) :
    ResultIsJudgement s :=
  fun h => absurd h (not_or.mpr ⟨hs, hp⟩)

/-- What DECODE writes is the judgement of the frame in FB. -/
theorem resultIsJudgement_judgedState {s : State} {kind : ResKind} {code : Byte}
    (hj : judgement (replyClassOf s) s.fb.frame = some (kind, code)) : ResultIsJudgement (judgedState kind code s) :=
  fun _ => ⟨rfl, rfl, hj⟩

theorem resultIsJudgement_nextInputs {s : State} (h : ResultIsJudgement s) : ResultIsJudgement (nextInputs s) := by
  simpa [ResultIsJudgement] using h

theorem resultIsJudgement_exchangeMove {s u : State} (hs : ResultIsJudgement s) (h : ExchangeMove s u) :
    ResultIsJudgement u := by
  cases h with
  | wait => exact hs
  | judge _ hj => exact resultIsJudgement_judgedState hj
  | encode _ | txFail _ _ | rxFail _ _ | take _ _ =>
    exact resultIsJudgement_of_phase (by simp [Error.terminal]) (by simp [Error.terminal])
  | tx hp _ _ _ =>
    exact resultIsJudgement_of_phase (by rw [txByte_phase, hp]; split <;> simp)
      (by rw [txByte_phase, hp]; split <;> simp)
  | rx _ _ _ _ =>
    exact resultIsJudgement_of_phase (by rw [rxByte_phase]; split <;> simp) (by rw [rxByte_phase]; split <;> simp)

end Sys2Proof.Machine
end

section
/-! The output views (R38, R39): each byte of a view is a byte of the frame buffer. -/

namespace Sys2Proof.Machine

open Sys2Proof

/-- Byte `k` of a little-endian number is byte `k` of the sequence it was assembled from. -/
theorem leNat_byte (l : List Byte) (k : Nat) : leNat l / 256 ^ k % 256 = (l.getD k 0).toNat := by
  induction l generalizing k with
  | nil => simp [leNat]
  | cons b l ih =>
    have hb := b.isLt
    cases k with
    | zero => simp only [leNat, pow_zero, Nat.div_one, List.getD_cons_zero]; omega
    | succ k =>
      have hdiv : (b.toNat + 256 * leNat l) / 256 = leNat l := by omega
      rw [leNat, Nat.pow_succ', ← Nat.div_div_eq_div_mul, hdiv, ih, List.getD_cons_succ]

/-- A port that is wide enough for a byte sequence carries byte `k` at bits `8k+7 : 8k`. -/
theorem portBits_byte {w : Nat} {l : List Byte} (hw : 8 * l.length ≤ w) (k : Nat) :
    (portBits w l).extractLsb' (8 * k) 8 = l.getD k 0 := by
  apply BitVec.eq_of_toNat_eq
  have hlt : leNat l < 2 ^ w := calc
    leNat l < 256 ^ l.length := leNat_lt l
    _ = 2 ^ (8 * l.length) := by rw [Nat.pow_mul]
    _ ≤ 2 ^ w := Nat.pow_le_pow_right (by decide) hw
  rw [BitVec.extractLsb'_toNat, portBits, BitVec.toNat_ofNat, Nat.mod_eq_of_lt hlt, Nat.shiftRight_eq_div_pow,
    Nat.pow_mul]
  exact leNat_byte l k

theorem bytesAt_getD (l : List Byte) (o : Nat) {n k : Nat} (hk : k < n) :
    (bytesAt l o n).getD k 0 = l.getD (o + k) 0 := by
  simp only [bytesAt, List.getD_eq_getElem?_getD, List.getElem?_take, hk, if_true, List.getElem?_drop]

/-- Byte `k` of a field of the payload in FB is the frame-buffer byte behind the three header bytes. -/
theorem fieldBytes_getD (m : Memory) {f : FieldAt} (hf : f.off + f.width ≤ 22) {k : Nat} (hk : k < f.width) :
    (fieldBytes (payloadOf m.frame) f).getD k 0 = m.read (3 + f.off + k) := by
  have hin : f.off + k < 22 := by omega
  rw [fieldBytes, bytesAt_getD _ _ hk, payloadOf, bytesAt_getD _ _ hin,
    Memory.frame_getD m (k := 3 + (f.off + k)) (by omega), Nat.add_assoc]

/-- A view of a field of the payload in FB, byte by byte (R39). -/
theorem view_byte (m : Memory) {w : Nat} {f : FieldAt} (hf : f.off + f.width ≤ 22) (hw : 8 * f.width ≤ w)
    {k : Nat} (hk : k < f.width) :
    (portBits w (fieldBytes (payloadOf m.frame) f)).extractLsb' (8 * k) 8 = m.read (3 + f.off + k) := by
  have hlen : (fieldBytes (payloadOf m.frame) f).length = f.width := bytesAt_length (by simpa using hf)
  rw [portBits_byte (by rw [hlen]; exact hw), fieldBytes_getD m hf hk]

/-- A view that is one byte wide is its frame-buffer byte. -/
theorem view_one_byte (m : Memory) {off : Nat} (h : off < 22) :
    fieldNum 8 (payloadOf m.frame) ⟨off, 1⟩ = m.read (3 + off) := by
  have hview := view_byte m (w := 8) (f := ⟨off, 1⟩) h (by simp) Nat.one_pos
  rwa [Nat.mul_zero, BitVec.extractLsb'_eq_self] at hview

end Sys2Proof.Machine
end

section
/-! The obligations of 10_state.md. -/

namespace Sys2Proof.Settled

open Sys2Proof Sys2Proof.Machine

/-- Settles O44: R30, the canonical buffer and the codes are each kept by every step. -/
theorem stepKeepsInv : Obligations.StepKeepsInv := by
  unfold Obligations.StepKeepsInv
  intro s t ⟨hR, hwf, hcc⟩ h
  exact ⟨step_r30 hR hwf h, step_fb_wf hwf h, by rw [step_cmdCode h]; exact hcc⟩

/-- Settles O19: every view is a field of the payload in FB. -/
theorem viewPortsCarryTheirBytes : Obligations.ViewPortsCarryTheirBytes := by
  unfold Obligations.ViewPortsCarryTheirBytes
  intro s
  have hstate : (telemetry (payloadOf s.fb.frame)).state = s.fb.read 9 := view_one_byte s.fb (by decide)
  have hview : ∀ {w : Nat} (f : FieldAt), f.off + f.width ≤ 22 → 8 * f.width ≤ w → ∀ k, k < f.width →
      (portBits w (fieldBytes (payloadOf s.fb.frame) f)).extractLsb' (8 * k) 8 = s.fb.read (3 + f.off + k) :=
    fun _ hf hw _ hk => view_byte s.fb hf hw hk
  refine ⟨hview stRaw (by decide) (by decide), hview tmPresCurrent (by decide) (by decide),
    hview tmPresVoltage (by decide) (by decide), congrArg (BitVec.getLsbD · 0) hstate,
    congrArg (BitVec.getLsbD · 1) hstate, congrArg (BitVec.extractLsb' 2 2) hstate,
    congrArg (BitVec.extractLsb' 4 3) hstate, congrArg (BitVec.getLsbD · 7) hstate,
    view_one_byte s.fb (by decide), view_one_byte s.fb (by decide),
    hview tmMaxVoltage (by decide) (by decide), hview tmOutVoltage (by decide) (by decide),
    hview tmReserved (by decide) (by decide), hview idModel (by decide) (by decide),
    view_one_byte s.fb (by decide), view_one_byte s.fb (by decide), hview idSerial (by decide) (by decide),
    hview idReserved (by decide) (by decide)⟩

/-- Settles O36: by the frame of an edge of the exchange, and ACCEPT in `Idle`. -/
theorem commandFrame : Obligations.CommandFrame := by
  unfold Obligations.CommandFrame
  intro c a v x s t h
  rw [exec_instr] at h
  rcases request_move h with hf | ⟨hp, rfl⟩
  · exact ⟨hf.cmdCode, hf.ports, hf.pending, hf.freeCount, fun _ => hf.latches,
      fun k he hk => hf.fb k he (fun hread _ _ => hk hread),
      fun hd ht => hf.flags hd (fun hack => by simp [ht] at hack), hf.result, hf.trace⟩
  · simp [hp]

/-- Settles O45: reset and ACCEPT cannot stop, and under R30 the exchange does not. -/
theorem invNeverStops : Obligations.InvNeverStops := by
  unfold Obligations.InvNeverStops
  intro s hs
  suffices h : ∃ u, edge s = .next u by
    obtain ⟨u, hu⟩ := h
    exact ⟨nextInputs u, step_next_iff.mpr ⟨u, hu, rfl⟩⟩
  rw [edge_eq]
  split
  · exact ⟨_, rfl⟩
  split
  · split <;> exact ⟨_, rfl⟩
  · exact exchange_next hs.rules

/-- Settles O47: only DECODE enters the two phases, and it writes the judgement. -/
theorem stepKeepsResultIsJudgement : Obligations.StepKeepsResultIsJudgement := by
  unfold Obligations.StepKeepsResultIsJudgement
  intro s t hs h
  obtain ⟨u, rfl, hu⟩ := step_move h
  apply resultIsJudgement_nextInputs
  cases hu with
  | reset _ => exact resultIsJudgement_of_phase (by simp) (by simp)
  | refuse _ _ _ _ => exact resultIsJudgement_of_phase (by simp [Error.terminal]) (by simp [Error.terminal])
  | accept _ _ _ _ => exact resultIsJudgement_of_phase (by simp) (by simp)
  | exchange _ h => exact resultIsJudgement_exchangeMove hs h

/-- Settles O54: no edge of an exchange and no refusal writes the latches. -/
theorem latchesWrittenOnlyByAccept : Obligations.LatchesWrittenOnlyByAccept := by
  unfold Obligations.LatchesWrittenOnlyByAccept
  intro s t h
  refine ⟨step_cmdCode h, fun hr hacc => ?_⟩
  obtain ⟨u, rfl, hf | ⟨hp, hv, ⟨-, rfl⟩ | ⟨hU, -⟩⟩⟩ := step_outside_reset h hr
  · simpa using hf.latches
  · simp
  · exact absurd ⟨hp, hv, hU⟩ hacc

/-- Settles O55: by the frame of an edge of the exchange; neither branch of ACCEPT touches FB. -/
theorem bufferWrittenOnlyByEncodeAndRx : Obligations.BufferWrittenOnlyByEncodeAndRx := by
  unfold Obligations.BufferWrittenOnlyByEncodeAndRx
  intro s t h hr he k hk
  obtain ⟨u, rfl, hf | ⟨-, -, ⟨-, rfl⟩ | ⟨-, rfl⟩⟩⟩ := step_outside_reset h hr
  · simpa using hf.fb k he hk
  · simp
  · simp

/-- Settles O56: by the frame of an edge of the exchange; neither branch of ACCEPT touches the flags. -/
theorem flagsWrittenOnlyByDecodeAndAck : Obligations.FlagsWrittenOnlyByDecodeAndAck := by
  unfold Obligations.FlagsWrittenOnlyByDecodeAndAck
  intro s t h hr hd ha
  obtain ⟨u, rfl, hf | ⟨-, -, ⟨-, rfl⟩ | ⟨-, rfl⟩⟩⟩ := step_outside_reset h hr
  · simpa using hf.flags hd ha
  · simp
  · simp

/-- Settles O42: the control values of R41 alone decide R30. -/
theorem controlResetHasR30 : Obligations.ControlResetHasR30 := by
  unfold Obligations.ControlResetHasR30
  exact fun _ h => r30_of_controlReset h

/-- Settles O43, with the default command codes (log entry 2). -/
theorem resetHasInv : Obligations.ResetHasInv := by
  unfold Obligations.ResetHasInv
  exact ⟨r30_of_controlReset ⟨rfl, rfl, rfl, rfl, rfl, rfl⟩, State.reset_fb_wf, by decide⟩

/-- Settles O49: the log is empty and the phase is `Idle`. -/
theorem resetHasNoExchange : Obligations.ResetHasNoExchange := by
  unfold Obligations.ResetHasNoExchange
  exact ⟨rfl, resultIsJudgement_of_phase nofun nofun, rfl⟩

/-- Settles O20: each register of State.reset and each output of it, evaluated. -/
theorem resetControlValues : Obligations.ResetControlValues := by
  unfold Obligations.ResetControlValues
  exact ⟨⟨rfl, rfl, rfl, rfl, rfl, rfl⟩, rfl, rfl, rfl, rfl, rfl, rfl, rfl, rfl⟩

end Sys2Proof.Settled
end

section
/-! The frame buffer as numbers (R54, R55): consecutive reads and writes, little-endian. -/

namespace Sys2Proof.Machine

open Sys2Proof

/-- Consecutive reads in two pieces. -/
theorem Memory.load_add (m : Memory) (a n k : Nat) : m.load a (n + k) = m.load a n ++ m.load (a + n) k := by
  induction n generalizing a with
  | zero => simp [Memory.load]
  | succ n ih => rw [Nat.succ_add, Memory.load, Memory.load, ih, Nat.succ_add_eq_add_succ, List.cons_append]

/-- A slice of consecutive reads is consecutive reads. -/
theorem Memory.bytesAt_load (m : Memory) (a : Nat) {n o k : Nat} (h : o + k ≤ n) :
    bytesAt (m.load a n) o k = m.load (a + o) k := by
  obtain ⟨r, rfl⟩ := Nat.exists_eq_add_of_le h
  rw [Nat.add_assoc, Memory.load_add, Memory.load_add]
  exact bytesAt_append (Memory.load_length m a o) (Memory.load_length m (a + o) k)

/-- A slice of the payload window stands three bytes further on in FB (R51). -/
theorem Memory.bytesAt_payloadOf (m : Memory) {o k : Nat} (h : o + k ≤ 22) :
    bytesAt (payloadOf m.frame) o k = m.load (3 + o) k := by
  rw [payloadOf, Memory.frame, Memory.bytesAt_load m 0 (by decide), Nat.zero_add, Memory.bytesAt_load m _ h]

/-- Consecutive reads assembled: byte `k` has the weight `256 ^ k`. -/
theorem leNat_load (m : Memory) (a n : Nat) :
    leNat (m.load a n) = ∑ k ∈ Finset.range n, 256 ^ k * (m.read (a + k)).toNat := by
  induction n generalizing a with
  | zero => rfl
  | succ n ih =>
    have hnext : ∀ k, a + 1 + k = a + (k + 1) := fun k => by omega
    simp only [Memory.load, leNat, ih, Finset.sum_range_succ', Finset.mul_sum, hnext, pow_succ']
    simp [Nat.add_comm, Nat.mul_assoc]

/-- Byte `k` of the little-endian bytes of a number. -/
theorem leBytes_getD {n k : Nat} (v : Nat) (hk : k < n) :
    (leBytes n v).getD k 0 = BitVec.ofNat 8 (v / 256 ^ k) := by
  induction n generalizing v k with
  | zero => omega
  | succ n ih =>
    cases k with
    | zero => simp [leBytes]
    | succ k =>
      rw [leBytes, List.getD_cons_succ, ih _ (Nat.lt_of_succ_lt_succ hk), Nat.div_div_eq_div_mul, Nat.pow_succ']

/-- MemRead where R54 defines it. -/
theorem memRead_of_le {m : Memory} {a n : Nat} (hn : 1 ≤ n) (h : a + n ≤ 26) :
    memRead m a n = some (leNat (m.load a n)) :=
  if_pos ⟨hn, h⟩

/-- MemWrite where R54 defines it. -/
theorem memWrite_of_le {m : Memory} {a n : Nat} (v : Nat) (hn : 1 ≤ n) (h : a + n ≤ 26) :
    memWrite m a n v = some (m.store a (leBytes n v)) :=
  if_pos ⟨hn, h⟩

/-- Beyond byte 25 MemRead has no result (log entry 8). -/
theorem memRead_beyond (m : Memory) {a n : Nat} (h : 26 < a + n) : memRead m a n = none :=
  if_neg fun hin => Nat.not_le.mpr h hin.2

/-- Beyond byte 25 MemWrite has no result (log entry 8). -/
theorem memWrite_beyond (m : Memory) {a n : Nat} (v : Nat) (h : 26 < a + n) : memWrite m a n v = none :=
  if_neg fun hin => Nat.not_le.mpr h hin.2

/-- A number assembled from `n` bytes fits `8 * n` bits. -/
theorem toNat_ofNat_leNat {l : List Byte} {n w : Nat} (hl : l.length = n) (hw : w = 8 * n) :
    (BitVec.ofNat w (leNat l)).toNat = leNat l := by
  subst hl hw
  rw [BitVec.toNat_ofNat, Nat.pow_mul]
  exact Nat.mod_eq_of_lt (leNat_lt l)

/-- The little-endian numbers of the payload window are MemRead three bytes further on (R55). -/
theorem memRead_payload (m : Memory) {o n w : Nat} (hn : 1 ≤ n) (h : o + n ≤ 22) (hw : w = 8 * n) :
    memRead m (3 + o) n = some (BitVec.ofNat w (leNat (bytesAt (payloadOf m.frame) o n))).toNat := by
  rw [memRead_of_le hn (by omega), Memory.bytesAt_payloadOf m h,
    toNat_ofNat_leNat (Memory.load_length m (3 + o) n) hw]

end Sys2Proof.Machine
end

section
/-! The streams (R50, R52): which events are on them, and what an edge adds. -/

namespace Sys2Proof.Machine

open Sys2Proof

/-- The byte an event puts on the transmit stream. -/
def Event.sent? : Event → Option Byte
  | .txByte b => some b
  | .reset | .accepted _ _ _ _ | .rxByte _ | .judged _ _ | .taken _ _ => none

/-- The byte an event takes from the receive stream. -/
def Event.received? : Event → Option Byte
  | .rxByte b => some b
  | .reset | .accepted _ _ _ _ | .txByte _ | .judged _ _ | .taken _ _ => none

theorem txStream_eq (s : State) : s.txStream = s.trace.reverse.filterMap Event.sent? := by
  unfold State.txStream
  congr 1
  funext e
  cases e <;> rfl

theorem rxTaken_eq (s : State) : s.rxTaken = s.trace.reverse.filterMap Event.received? := by
  unfold State.rxTaken
  congr 1
  funext e
  cases e <;> rfl

theorem txStream_cons {s t : State} {e : Event} (h : t.trace = e :: s.trace) :
    t.txStream = s.txStream ++ e.sent?.toList := by
  rw [txStream_eq, txStream_eq, h, List.reverse_cons, List.filterMap_append]
  cases e <;> rfl

theorem rxTaken_cons {s t : State} {e : Event} (h : t.trace = e :: s.trace) :
    t.rxTaken = s.rxTaken ++ e.received?.toList := by
  rw [rxTaken_eq, rxTaken_eq, h, List.reverse_cons, List.filterMap_append]
  cases e <;> rfl

/-- Step TX takes place: outside reset, in `Writing`, a byte is taken and the transport does not fail (R183). -/
abbrev HandsOver (s : State) : Prop :=
  s.ports.rst = false ∧ s.phase = .writing ∧ s.ports.txErr = false ∧ s.ports.txReady = true

/-- Step RX takes place: outside reset, in a reading phase, a byte is offered and the transport does not fail
(R185). -/
abbrev TakesIn (s : State) : Prop :=
  s.ports.rst = false ∧ (s.phase = .awaitingReply ∨ s.phase = .reading) ∧ s.ports.rxErr = false ∧
    s.ports.rxValid = true

/-! ### The edge outside reset, in the phases that use a channel -/

theorem edge_writing {s : State} (hr : s.ports.rst = false) (hp : s.phase = .writing) :
    edge s = writingStep s := by
  simp [edge_eq, hr, hp, exchange]

theorem edge_reading {s : State} (hr : s.ports.rst = false)
    (hp : s.phase = .awaitingReply ∨ s.phase = .reading) : edge s = readingStep s := by
  rcases hp with hp | hp <;> simp [edge_eq, hr, hp, exchange]

theorem edge_terminal {s : State} (hr : s.ports.rst = false) (ht : s.phase.terminal = true) :
    edge s = ackStep s := by
  have hi : s.phase ≠ .idle := fun e => by simp [e, Phase.terminal] at ht
  simp [edge_eq, hr, hi, exchange_terminal ht]

/-- The step in which a byte is handed over. -/
theorem step_handsOver {s t : State} (h : step s = .next t) (hs : HandsOver s) :
    t = nextInputs (txByte (s.fb.read s.idx.toNat) s) := by
  obtain ⟨u, hu, rfl⟩ := step_next_iff.mp h
  obtain ⟨hr, hp, herr, hready⟩ := hs
  rw [edge_writing hr hp] at hu
  rcases writingStep_cases s with ⟨hf, -⟩ | ⟨-, -, -, he⟩ | ⟨-, -, -, he⟩ | ⟨-, hf, -⟩
  · simp [herr] at hf
  · rw [he] at hu; rw [Host.Outcome.next.inj hu]
  · rw [he] at hu; cases hu
  · simp [hready] at hf

/-- The step in which a byte is taken in. -/
theorem step_takesIn {s t : State} (h : step s = .next t) (hs : TakesIn s) :
    t = nextInputs (rxByte s.ports.rxData (s.fb.write s.idx.toNat s.ports.rxData) s) := by
  obtain ⟨u, hu, rfl⟩ := step_next_iff.mp h
  obtain ⟨hr, hp, herr, hvalid⟩ := hs
  rw [edge_reading hr hp] at hu
  rcases readingStep_cases s with ⟨hf, -⟩ | ⟨-, -, -, he⟩ | ⟨-, -, -, he⟩ | ⟨-, hf, -⟩
  · simp [herr] at hf
  · rw [he] at hu; rw [Host.Outcome.next.inj hu]
  · rw [he] at hu; cases hu
  · simp [hvalid] at hf

/-- The log of `t` is that of `s`, or it has one event more that is on neither stream. -/
def NoStreamEvent (s t : State) : Prop :=
  t.trace = s.trace ∨ ∃ e : Event, e.sent? = none ∧ e.received? = none ∧ t.trace = e :: s.trace

theorem streams_of_noStreamEvent {s t : State} (h : NoStreamEvent s t) :
    t.txStream = s.txStream ∧ t.rxTaken = s.rxTaken := by
  rcases h with h | ⟨e, hs, hr, h⟩
  · simp only [State.txStream, State.rxTaken, h, and_self]
  · rw [txStream_cons h, rxTaken_cons h, hs, hr]
    simp

/-- Every step but TX and RX adds no stream event to the log. -/
theorem step_noStreamEvent {s t : State} (h : step s = .next t) (htx : ¬ HandsOver s) (hrx : ¬ TakesIn s) :
    NoStreamEvent s t := by
  obtain ⟨u, rfl, hu⟩ := step_move h
  rw [NoStreamEvent, nextInputs_trace]
  cases hu with
  | reset _ | refuse _ _ _ _ | accept _ _ _ _ => exact .inr ⟨_, rfl, rfl, rfl⟩
  | exchange hr hx =>
    cases hx with
    | wait | encode _ => exact .inl rfl
    | txFail _ _ | rxFail _ _ | judge _ _ | take _ _ => exact .inr ⟨_, rfl, rfl, rfl⟩
    | tx hp herr hready _ => exact absurd ⟨hr, hp, herr, hready⟩ htx
    | rx hp herr hvalid _ => exact absurd ⟨hr, hp, herr, hvalid⟩ hrx

/-- TX and RX never take place together: their phases differ. -/
theorem not_takesIn_of_handsOver {s : State} (h : HandsOver s) : ¬ TakesIn s := by
  obtain ⟨-, hwriting, -, -⟩ := h
  rintro ⟨-, hreading, -, -⟩
  simp [hwriting] at hreading

end Sys2Proof.Machine
end

section
/-! The offers the block makes (R53, R189): an offer not taken stands, and so do the outputs. -/

namespace Sys2Proof.Machine

open Sys2Proof

/-- A waiting edge of `Writing` (R190). -/
theorem edge_waits_tx {s : State} (hr : s.ports.rst = false) (hp : s.phase = .writing)
    (hready : s.ports.txReady = false) (herr : s.ports.txErr = false) : edge s = .next s := by
  simp [edge_writing hr hp, writingStep, hready, herr]

/-- A waiting edge of a terminal phase: the result is held (R189). -/
theorem edge_waits_result {s : State} (hr : s.ports.rst = false) (ht : s.phase.terminal = true)
    (hready : s.ports.resReady = false) : edge s = .next s := by
  simp [edge_terminal hr ht, ackStep, hready]

theorem step_of_edge_waits {s t : State} (he : edge s = .next s) (h : step s = .next t) : t = nextInputs s := by
  obtain ⟨u, hu, rfl⟩ := step_next_iff.mp h
  rw [← Host.Outcome.next.inj (he.symm.trans hu)]

/-- Of the input ports, the outputs depend on `rst` only (R192, R230). -/
theorem outputs_nextInputs {s : State} (h : (nextInputs s).ports.rst = s.ports.rst) :
    outputs (nextInputs s) = outputs s := by
  simp [outputs, h]

/-- Between two edges outside reset with a wait in the first, every output port keeps its value. -/
theorem outputs_of_edge_waits {s t : State} (he : edge s = .next s) (h : step s = .next t)
    (hr : s.ports.rst = false) (hr' : t.ports.rst = false) : outputs t = outputs s := by
  rw [step_of_edge_waits he h] at hr' ⊢
  exact outputs_nextInputs (hr'.trans hr.symm)

theorem txValid_iff {s : State} : (outputs s).txValid = true ↔ s.ports.rst = false ∧ s.phase = .writing := by
  simp [outputs]

theorem resValid_iff {s : State} :
    (outputs s).resValid = true ↔ s.ports.rst = false ∧ s.phase.terminal = true := by
  simp [outputs]

end Sys2Proof.Machine
end

section
/-! The events of the exchange in progress (R59, R191). -/

namespace Sys2Proof.Machine

open Sys2Proof

/-- An event that does not end the exchange is its newest. -/
theorem exchangeEvents_cons {s u : State} {e : Event} (h : u.trace = e :: s.trace)
    (he : e.endsExchange = false) : exchangeEvents u = exchangeEvents s ++ [e] := by
  simp [exchangeEvents, h, he]

/-- A result taken or a reset leaves no exchange in progress. -/
theorem exchangeEvents_ended {s u : State} {e : Event} (h : u.trace = e :: s.trace)
    (he : e.endsExchange = true) : exchangeEvents u = [] := by
  simp [exchangeEvents, h, he]

/-- The events of an exchange that has sent the first `n` bytes of its request frame. -/
def sentEvents (s : State) (n : Nat) : List Event :=
  acceptedEvent s :: ((requestFrame s).take n).map .txByte

/-- The events of an exchange that has sent its whole request frame and taken the reply bytes `l`. -/
def receivedEvents (s : State) (l : List Byte) : List Event :=
  acceptedEvent s :: ((requestFrame s).map .txByte ++ l.map .rxByte)

/-- With all 26 bytes sent, what follows are the reply bytes. -/
theorem sentEvents_full (s : State) : sentEvents s 26 = receivedEvents s [] := by
  rw [sentEvents, receivedEvents, List.take_of_length_le (requestFrame_length s).le, List.map_nil, List.append_nil]

theorem sentEvents_succ (s : State) {n : Nat} (hn : n < 26) :
    sentEvents s (n + 1) = sentEvents s n ++ [.txByte ((requestFrame s).getD n 0)] := by
  have hlen : n < (requestFrame s).length := by simpa using hn
  rw [sentEvents, List.take_add_one, List.getElem?_eq_getElem hlen, ← List.getD_eq_getElem _ 0 hlen,
    List.map_append]
  rfl

theorem receivedEvents_append (s : State) (l : List Byte) (b : Byte) :
    receivedEvents s (l ++ [b]) = receivedEvents s l ++ [.rxByte b] := by
  simp [receivedEvents]

/-- A byte handed over leaves the request latches alone, so the events before it are told by either state. -/
@[simp] theorem sentEvents_of_txByte (b : Byte) (s : State) (n : Nat) :
    sentEvents (txByte b s) n = sentEvents s n := by
  simp [sentEvents, acceptedEvent, requestFrame]

/-- A byte stored leaves the request latches alone. -/
@[simp] theorem receivedEvents_of_rxByte (b : Byte) (m : Memory) (s : State) (l : List Byte) :
    receivedEvents (rxByte b m s) l = receivedEvents s l := by
  simp [receivedEvents, acceptedEvent, requestFrame]

/-! ### EventsInOrder, phase by phase -/

theorem eventsInOrder_idle {s : State} (hp : s.phase = .idle) :
    EventsInOrder s ↔ exchangeEvents s = [] := by
  simp [EventsInOrder, hp]

theorem eventsInOrder_encoding {s : State} (hp : s.phase = .encoding) :
    EventsInOrder s ↔ exchangeEvents s = sentEvents s 0 := by
  simp [EventsInOrder, hp, sentEvents]

theorem eventsInOrder_writing {s : State} (hp : s.phase = .writing) :
    EventsInOrder s ↔ exchangeEvents s = sentEvents s s.idx.toNat := by
  simp [EventsInOrder, hp, sentEvents]

theorem eventsInOrder_awaitingReply {s : State} (hp : s.phase = .awaitingReply) :
    EventsInOrder s ↔ exchangeEvents s = receivedEvents s [] := by
  simp [EventsInOrder, hp, receivedEvents]

theorem eventsInOrder_reading {s : State} (hp : s.phase = .reading) :
    EventsInOrder s ↔ exchangeEvents s = receivedEvents s (s.fb.frame.take s.idx.toNat) := by
  simp [EventsInOrder, hp, receivedEvents]

theorem eventsInOrder_decoding {s : State} (hp : s.phase = .decoding) :
    EventsInOrder s ↔ exchangeEvents s = receivedEvents s s.fb.frame := by
  simp [EventsInOrder, hp, receivedEvents]

theorem eventsInOrder_judged {s : State} (hp : s.phase = .success ∨ s.phase = .protocolError) :
    EventsInOrder s ↔
      exchangeEvents s = receivedEvents s s.fb.frame ++ [.judged s.resKind s.resCode] := by
  rcases hp with hp | hp <;> simp [EventsInOrder, hp, receivedEvents]

theorem eventsInOrder_transportError {s : State} (hp : s.phase = .transportError) :
    EventsInOrder s ↔
      (∃ n ≤ 25, exchangeEvents s = sentEvents s n ++ [.judged s.resKind s.resCode]) ∨
      (∃ l : List Byte, l.length ≤ 25 ∧
        exchangeEvents s = receivedEvents s l ++ [.judged s.resKind s.resCode]) := by
  simp [EventsInOrder, hp, sentEvents, receivedEvents]

theorem eventsInOrder_refused {s : State} (hp : s.phase = .refused) :
    EventsInOrder s ↔ exchangeEvents s = [.judged s.resKind s.resCode] := by
  simp [EventsInOrder, hp]

/-- The input ports are no part of the order of events. -/
theorem eventsInOrder_nextInputs {s : State} (h : EventsInOrder s) : EventsInOrder (nextInputs s) := by
  simpa [EventsInOrder, exchangeEvents, acceptedEvent] using h

/-- In both reading phases the reply bytes taken are the first IDX bytes of FB: none yet in `AwaitingReply`. -/
theorem exchangeEvents_reading {s : State} (hR : R30 s) (hE : EventsInOrder s)
    (hp : s.phase = .awaitingReply ∨ s.phase = .reading) :
    exchangeEvents s = receivedEvents s (s.fb.frame.take s.idx.toNat) := by
  rcases hp with hp | hp
  · have hidx : s.idx = 0 := hR.otherIdx (by simp [hp]) (by simp [hp])
    simpa [hidx] using (eventsInOrder_awaitingReply hp).mp hE
  · exact (eventsInOrder_reading hp).mp hE

/-! ### One lemma per step of the exchange -/

/-- R181: ACCEPT begins the exchange. -/
theorem eventsInOrder_latch {s : State} (hp : s.phase = .idle) (hE : EventsInOrder s) (cmd a : Byte) (v : Bool)
    (x : Word) : EventsInOrder (latch cmd a v x s) := by
  rw [eventsInOrder_encoding (latch_phase ..), exchangeEvents_cons (latch_trace ..) rfl,
    (eventsInOrder_idle hp).mp hE]
  rfl

/-- R206: a refused request has its judgement only. -/
theorem eventsInOrder_raise_badRequest {s : State} (hp : s.phase = .idle) (hE : EventsInOrder s) (cmd : Byte) :
    EventsInOrder (raise .badRequest cmd s) := by
  rw [eventsInOrder_refused rfl, exchangeEvents_cons (raise_trace ..) rfl, (eventsInOrder_idle hp).mp hE]
  rfl

/-- R182: ENCODE sends nothing. -/
theorem eventsInOrder_encodeStep {s : State} (hp : s.phase = .encoding) (hE : EventsInOrder s) :
    EventsInOrder (encodeStep s) :=
  (eventsInOrder_writing rfl).mpr ((eventsInOrder_encoding hp).mp hE)

/-- R183: the byte handed over is the next byte of the request frame, by R30 (e). -/
theorem eventsInOrder_txByte {s : State} (hR : R30 s) (hp : s.phase = .writing) (hE : EventsInOrder s) :
    EventsInOrder (txByte (s.fb.read s.idx.toNat) s) := by
  have hi : s.idx.toNat < 26 := hR.idxInRange.lt
  have hbyte : (requestFrame s).getD s.idx.toNat 0 = s.fb.read s.idx.toNat := by
    rw [← hR.frameBuilt hp, Memory.frame_getD _ hi]
  have hsent : exchangeEvents (txByte (s.fb.read s.idx.toNat) s) = sentEvents s (s.idx.toNat + 1) := by
    rw [exchangeEvents_cons (txByte_trace ..) rfl, (eventsInOrder_writing hp).mp hE, sentEvents_succ s hi, hbyte]
  by_cases hlast : s.idx = 25
  · rw [eventsInOrder_awaitingReply ((txByte_phase ..).trans (if_pos hlast)), ← sentEvents_full,
      sentEvents_of_txByte, hsent, hlast]
    rfl
  · have hnext : (s.idx + 1).toNat = s.idx.toNat + 1 := by bv_omega
    rw [eventsInOrder_writing ((txByte_phase ..).trans ((if_neg hlast).trans hp)), sentEvents_of_txByte, hsent,
      txByte_idx, if_neg hlast, hnext]

/-- R185: the bytes taken are those FB holds up to and with the one just stored. -/
theorem eventsInOrder_rxByte {s : State} (hR : R30 s) (hwf : s.fb.wf = true)
    (hp : s.phase = .awaitingReply ∨ s.phase = .reading) (hE : EventsInOrder s) (b : Byte) :
    EventsInOrder (rxByte b (s.fb.write s.idx.toNat b) s) := by
  have hi : s.idx.toNat < 26 := hR.idxInRange.lt
  have htake : (s.fb.write s.idx.toNat b).frame.take (s.idx.toNat + 1) =
      s.fb.frame.take s.idx.toNat ++ [b] := by
    rw [Memory.frame_write b hwf]
    simp [List.take_add_one, List.take_set_of_le, hi]
  have hreceived : exchangeEvents (rxByte b (s.fb.write s.idx.toNat b) s) =
      receivedEvents s ((s.fb.write s.idx.toNat b).frame.take (s.idx.toNat + 1)) := by
    rw [exchangeEvents_cons (rxByte_trace ..) rfl, exchangeEvents_reading hR hE hp, htake, receivedEvents_append]
  by_cases hlast : s.idx = 25
  · rw [eventsInOrder_decoding ((rxByte_phase ..).trans (if_pos hlast)), receivedEvents_of_rxByte, hreceived,
      rxByte_fb, List.take_of_length_le (by simp [hlast])]
  · have hnext : (s.idx + 1).toNat = s.idx.toNat + 1 := by bv_omega
    rw [eventsInOrder_reading ((rxByte_phase ..).trans (if_neg hlast)), receivedEvents_of_rxByte, hreceived,
      rxByte_fb, rxByte_idx, if_neg hlast, hnext]

/-- R184: a failure of the transport with at most 25 bytes sent. -/
theorem eventsInOrder_txFail {s : State} (hR : R30 s) (hp : s.phase = .writing) (hE : EventsInOrder s)
    (code : Byte) : EventsInOrder (raise .transportError code s) := by
  refine (eventsInOrder_transportError rfl).mpr (.inl ⟨s.idx.toNat, hR.writingIdx hp, ?_⟩)
  rw [exchangeEvents_cons (raise_trace ..) rfl, (eventsInOrder_writing hp).mp hE]
  rfl

/-- R187: a failure of the transport with 26 bytes sent and at most 25 taken. -/
theorem eventsInOrder_rxFail {s : State} (hR : R30 s) (hp : s.phase = .awaitingReply ∨ s.phase = .reading)
    (hE : EventsInOrder s) (code : Byte) : EventsInOrder (raise .transportError code s) := by
  have hlen : (s.fb.frame.take s.idx.toNat).length ≤ 25 :=
    (List.length_take_le ..).trans (Nat.le_of_lt_succ hR.idxInRange.lt)
  refine (eventsInOrder_transportError rfl).mpr (.inr ⟨_, hlen, ?_⟩)
  rw [exchangeEvents_cons (raise_trace ..) rfl, exchangeEvents_reading hR hE hp]
  rfl

/-- R188: the judgement comes after the 26 reply bytes. -/
theorem eventsInOrder_judgedState {s : State} (hp : s.phase = .decoding) (hE : EventsInOrder s) (kind : ResKind)
    (code : Byte) : EventsInOrder (judgedState kind code s) := by
  have hp' : (judgedState kind code s).phase = .success ∨ (judgedState kind code s).phase = .protocolError := by
    rw [judgedState_phase]
    exact (ite_eq_or_eq ..)
  rw [eventsInOrder_judged hp', exchangeEvents_cons (judgedState_trace ..) rfl,
    (eventsInOrder_decoding hp).mp hE]
  rfl

/-- The order of events is kept by every edge of an exchange. -/
theorem eventsInOrder_exchangeMove {s u : State} (hR : R30 s) (hwf : s.fb.wf = true) (hE : EventsInOrder s)
    (h : ExchangeMove s u) : EventsInOrder u := by
  cases h with
  | wait => exact hE
  | encode hp => exact eventsInOrder_encodeStep hp hE
  | txFail hp _ => exact eventsInOrder_txFail hR hp hE _
  | tx hp _ _ _ => exact eventsInOrder_txByte hR hp hE
  | rxFail hp _ => exact eventsInOrder_rxFail hR hp hE _
  | rx hp _ _ _ => exact eventsInOrder_rxByte hR hwf hp hE _
  | judge hp _ => exact eventsInOrder_judgedState hp hE _ _
  | take _ _ => exact (eventsInOrder_idle rfl).mpr (exchangeEvents_ended (ack_trace s) rfl)

end Sys2Proof.Machine
end

section
/-! The obligations of 20_memory.md. -/

namespace Sys2Proof.Settled

open Sys2Proof Sys2Proof.Machine

/-- Settles O48: each edge adds the event its phase asks for, and reset ends the exchange. -/
theorem stepKeepsEventsInOrder : Obligations.StepKeepsEventsInOrder := by
  unfold Obligations.StepKeepsEventsInOrder
  intro s t ⟨hR, hwf, _⟩ hE h
  obtain ⟨u, rfl, hu⟩ := step_move h
  apply eventsInOrder_nextInputs
  cases hu with
  | reset _ => exact (eventsInOrder_idle (resetEdge_phase s)).mpr (exchangeEvents_ended (resetEdge_trace s) rfl)
  | refuse _ hp _ _ => exact eventsInOrder_raise_badRequest hp hE _
  | accept _ hp _ _ => exact eventsInOrder_latch hp hE _ _ _ _
  | exchange _ h => exact eventsInOrder_exchangeMove hR hwf hE h

/-- Settles O9: reads and writes of the canonical buffer byte by byte, and the payload window as a slice of it. -/
theorem memReadMemWriteLittleEndian : Obligations.MemReadMemWriteLittleEndian := by
  unfold Obligations.MemReadMemWriteLittleEndian
  refine ⟨?_, ?_, fun m _ h => memRead_payload m (by decide) h rfl,
    fun m _ h => memRead_payload m (by decide) h rfl,
    fun m _ _ v h => ⟨memRead_beyond m h, memWrite_beyond m v h⟩⟩
  · intro m a n hn h
    rw [memRead_of_le hn h, leNat_load]
  · intro m a n v hwf hn h
    refine ⟨_, memWrite_of_le v hn h, fun k hk => ?_, fun c hc => ?_⟩
    · rw [Memory.read_store_inside hwf (by simpa using h) (by simpa using hk), leBytes_getD v hk]
    · exact Memory.read_store_outside (by simpa using hc)

/-- Settles O10: ENCODE, RX and the reset edge store inside the buffer, and no other edge writes it. -/
theorem stepKeepsBufferCanonical : Obligations.StepKeepsBufferCanonical := by
  unfold Obligations.StepKeepsBufferCanonical
  exact fun _ _ hwf h => step_fb_wf hwf h

/-- Settles O58: an offer not taken is a waiting edge, and a wait changes no output. -/
theorem blockHoldsItsOffers : Obligations.BlockHoldsItsOffers := by
  unfold Obligations.BlockHoldsItsOffers
  intro s t h hr'
  refine ⟨fun hv hready herr => ?_, fun hv hready => ?_⟩
  · obtain ⟨hr, hp⟩ := txValid_iff.mp hv
    rw [outputs_of_edge_waits (edge_waits_tx hr hp hready herr) h hr hr']
    exact ⟨hv, rfl⟩
  · obtain ⟨hr, ht⟩ := resValid_iff.mp hv
    rw [outputs_of_edge_waits (edge_waits_result hr ht hready) h hr hr']
    exact ⟨hv, rfl, rfl, rfl, rfl, rfl, rfl, rfl, rfl⟩

/-- Settles O59: TX and RX each log the byte they move, and no other step logs one. -/
theorem streamsMoveOnlyByTxAndRx : Obligations.StreamsMoveOnlyByTxAndRx := by
  unfold Obligations.StreamsMoveOnlyByTxAndRx
  intro s t h
  by_cases htx : HandsOver s
  · have htrace : t.trace = .txByte (s.fb.read s.idx.toNat) :: s.trace := by simp [step_handsOver h htx]
    rw [if_pos htx, if_neg (not_takesIn_of_handsOver htx), txStream_cons htrace, rxTaken_cons htrace]
    exact ⟨rfl, rfl⟩
  by_cases hrx : TakesIn s
  · have htrace : t.trace = .rxByte s.ports.rxData :: s.trace := by simp [step_takesIn h hrx]
    rw [if_neg htx, if_pos hrx, txStream_cons htrace, rxTaken_cons htrace]
    exact ⟨rfl, rfl⟩
  · rw [if_neg htx, if_neg hrx, List.append_nil, List.append_nil]
    exact streams_of_noStreamEvent (step_noStreamEvent h htx hrx)

end Sys2Proof.Settled
end

section
/-! The decoder and the encoder (R71, R72, R80, R86): every well-formed instruction is a request of a command or a
status row, and on these two forms decode and encode are one equation each. -/

namespace Sys2Proof

open Machine

/-! ### The dispatch decoder -/

theorem Command.replyClass_eq_T_iff {c : Command} : c.replyClass = .T ↔ c = .read := by
  cases c <;> simp [Command.replyClass]

theorem Command.replyClass_eq_I_iff {c : Command} : c.replyClass = .I ↔ c = .readProductInfo := by
  cases c <;> simp [Command.replyClass]

theorem Command.replyClass_eq_S_iff {c : Command} :
    c.replyClass = .S ↔ c ≠ .read ∧ c ≠ .readProductInfo := by
  cases c <;> simp [Command.replyClass]

/-- Under R10, a defined class is the class of the one command the byte is the code of. -/
theorem classOf_eq_iff {cc : CmdCode} (hcc : cc.wf = true) {b : Byte} {cls : ReplyClass} (hcls : cls ≠ .U) :
    classOf cc b = cls ↔ ∃ c, c.replyClass = cls ∧ b = cc.code c := by
  constructor
  · intro h
    cases hl : cc.lookup b with
    | none => exact absurd (h.symm.trans (CmdCode.lookup_eq_none_iff.mp hl)) hcls
    | some c =>
      have hb := CmdCode.lookup_some hl
      exact ⟨c, by rw [← h, ← hb, classOf_code hcc], hb.symm⟩
  · rintro ⟨c, rfl, rfl⟩
    exact classOf_code hcc c

/-- R10: the one code the document gives. -/
theorem CmdCode.code_setOutputVoltage {cc : CmdCode} (hcc : cc.wf = true) : cc.code .setOutputVoltage = 0x23 := by
  simp only [CmdCode.wf, Bool.and_eq_true, beq_iff_eq] at hcc
  obtain ⟨⟨-, hcode⟩, -⟩ := hcc
  exact hcode

/-! ### A request of a command -/

@[simp] theorem Command.encode_instr (cc : CmdCode) (c : Command) (a : Byte) (v : Bool) (x : Word) :
    encode cc (c.instr a v x) = requestBytes (cc.code c) a v x := by cases c <;> rfl

@[simp] theorem Command.channel_instr (c : Command) (a : Byte) (v : Bool) (x : Word) :
    (c.instr a v x).channel = .request := by cases c <;> rfl

@[simp] theorem Command.wf_instr (c : Command) (a : Byte) (v : Bool) (x : Word) : (c.instr a v x).wf = true := by
  cases c <;> rfl

/-! ### A status row -/

theorem Status.instr_of_not_named {st : Byte} (h : st ∉ Status.named) (raw : List Byte) :
    Status.instr st raw = .statusUnknown st raw := by
  simp only [Status.named, List.mem_cons, List.not_mem_nil, or_false, not_or] at h
  obtain ⟨h1, h2, h3, h4, h5⟩ := h
  rw [Status.instr, Status.ofByte, if_neg h1, if_neg h2, if_neg h3, if_neg h4, if_neg h5]

/-- The six rows a status byte selects, each with its byte. -/
theorem Status.instr_cases (st : Byte) (raw : List Byte) :
    (st = 0x80 ∧ Status.instr st raw = .statusCommandSuccessful raw) ∨
    (st = 0x90 ∧ Status.instr st raw = .statusChecksumIncorrect raw) ∨
    (st = 0xA0 ∧ Status.instr st raw = .statusParameterIncorrect raw) ∨
    (st = 0xB0 ∧ Status.instr st raw = .statusUnrecognizedCommand raw) ∨
    (st = 0xC0 ∧ Status.instr st raw = .statusInvalidCommand raw) ∨
    (st ∉ Status.named ∧ Status.instr st raw = .statusUnknown st raw) := by
  by_cases h : st ∈ Status.named
  · simp only [Status.named, List.mem_cons, List.not_mem_nil, or_false] at h
    rcases h with rfl | rfl | rfl | rfl | rfl <;> simp [Status.instr, Status.ofByte]
  · simp [h, Status.instr_of_not_named h]

@[simp] theorem Status.encode_instr (cc : CmdCode) (st : Byte) (raw : List Byte) :
    encode cc (Status.instr st raw) = st :: raw := by
  rcases Status.instr_cases st raw with
    ⟨rfl, h⟩ | ⟨rfl, h⟩ | ⟨rfl, h⟩ | ⟨rfl, h⟩ | ⟨rfl, h⟩ | ⟨-, h⟩ <;> rw [h] <;> rfl

@[simp] theorem Status.channel_instr (st : Byte) (raw : List Byte) : (Status.instr st raw).channel = .reply := by
  unfold Status.instr
  cases Status.ofByte st <;> rfl

/-- R157: the byte of the Unknown row is none of the five named values, so only the length is left to check. -/
@[simp] theorem Status.wf_instr (st : Byte) (raw : List Byte) :
    (Status.instr st raw).wf = Instr.rawOk raw := by
  rcases Status.instr_cases st raw with
    ⟨-, h⟩ | ⟨-, h⟩ | ⟨-, h⟩ | ⟨-, h⟩ | ⟨-, h⟩ | ⟨hst, h⟩ <;> rw [h]
  case inr.inr.inr.inr.inr => simp [Instr.wf, hst]
  all_goals rfl

/-! ### Every well-formed instruction has one of the two forms -/

/-- R86's two formats. -/
theorem Instr.format_of_wf {i : Instr} (h : i.wf = true) :
    (∃ c a v x, i = Command.instr c a v x) ∨ (∃ st raw, Instr.rawOk raw = true ∧ i = Status.instr st raw) := by
  cases i with
  | setRemoteMode a v x => exact .inl ⟨.setRemoteMode, a, v, x, rfl⟩
  | setOutputPower a v x => exact .inl ⟨.setOutputPower, a, v, x, rfl⟩
  | setMaxOutputVoltage a v x => exact .inl ⟨.setMaxOutputVoltage, a, v, x, rfl⟩
  | setOutputVoltage a v x => exact .inl ⟨.setOutputVoltage, a, v, x, rfl⟩
  | setOutputCurrent a v x => exact .inl ⟨.setOutputCurrent, a, v, x, rfl⟩
  | setCommAddr a v x => exact .inl ⟨.setCommAddr, a, v, x, rfl⟩
  | read a v x => exact .inl ⟨.read, a, v, x, rfl⟩
  | calibMode a v x => exact .inl ⟨.calibMode, a, v, x, rfl⟩
  | readCalibState a v x => exact .inl ⟨.readCalibState, a, v, x, rfl⟩
  | calibVoltage a v x => exact .inl ⟨.calibVoltage, a, v, x, rfl⟩
  | sendActualVoltage a v x => exact .inl ⟨.sendActualVoltage, a, v, x, rfl⟩
  | calibCurrent a v x => exact .inl ⟨.calibCurrent, a, v, x, rfl⟩
  | sendActualCurrent a v x => exact .inl ⟨.sendActualCurrent, a, v, x, rfl⟩
  | saveCalibData a v x => exact .inl ⟨.saveCalibData, a, v, x, rfl⟩
  | setCalibInfo a v x => exact .inl ⟨.setCalibInfo, a, v, x, rfl⟩
  | readCalibInfo a v x => exact .inl ⟨.readCalibInfo, a, v, x, rfl⟩
  | readProductInfo a v x => exact .inl ⟨.readProductInfo, a, v, x, rfl⟩
  | restoreFactoryDefault a v x => exact .inl ⟨.restoreFactoryDefault, a, v, x, rfl⟩
  | enableLocalKey a v x => exact .inl ⟨.enableLocalKey, a, v, x, rfl⟩
  | statusCommandSuccessful raw => exact .inr ⟨0x80, raw, h, rfl⟩
  | statusChecksumIncorrect raw => exact .inr ⟨0x90, raw, h, rfl⟩
  | statusParameterIncorrect raw => exact .inr ⟨0xA0, raw, h, rfl⟩
  | statusUnrecognizedCommand raw => exact .inr ⟨0xB0, raw, h, rfl⟩
  | statusInvalidCommand raw => exact .inr ⟨0xC0, raw, h, rfl⟩
  | statusUnknown st raw =>
    obtain ⟨hraw, hst⟩ : Instr.rawOk raw = true ∧ st ∉ Status.named := by simpa [Instr.wf] using h
    exact .inr ⟨st, raw, hraw, (Status.instr_of_not_named hst raw).symm⟩

/-! ### What each channel's decoder accepts -/

/-- The four argument bytes come back from the number they assemble to. -/
theorem le32_ofNat_leNat {l : List Byte} (hl : l.length = 4) : le32 (BitVec.ofNat 32 (leNat l)) = l := by
  have hlt := leNat_lt l
  rw [hl] at hlt
  rw [le32, BitVec.toNat_ofNat, Nat.mod_eq_of_lt (by omega), ← hl, leBytes_leNat]

/-- A request that decodes is the seven bytes of a command's request. -/
theorem decodeRequest_ok {cc : CmdCode} {bs : List Byte} {i : Instr} (h : decodeRequest cc bs = .ok i) :
    ∃ c a v x, bs = requestBytes (cc.code c) a v x ∧ i = Command.instr c a v x := by
  unfold decodeRequest at h
  split at h
  next cmd addr a0 a1 a2 a3 v =>
    have harg : le32 (BitVec.ofNat 32 (leNat [a0, a1, a2, a3])) = [a0, a1, a2, a3] := le32_ofNat_leNat rfl
    split at h
    next => cases h
    next c hl =>
    have hcmd := CmdCode.lookup_some hl
    split_ifs at h with h0 h1
    · exact ⟨c, addr, false, _, by simp [requestBytes, harg, hcmd, h0], (Except.ok.inj h).symm⟩
    · exact ⟨c, addr, true, _, by simp [requestBytes, harg, hcmd, h1], (Except.ok.inj h).symm⟩
  next => cases h

theorem decodeReply_cons {st : Byte} {raw : List Byte} (h : Instr.rawOk raw = true) :
    decodeReply (st :: raw) = .ok (Status.instr st raw) := if_pos h

/-- A reply payload that decodes is a status byte and 21 bytes behind it. -/
theorem decodeReply_ok {bs : List Byte} {i : Instr} (h : decodeReply bs = .ok i) :
    ∃ st raw, Instr.rawOk raw = true ∧ bs = st :: raw ∧ i = Status.instr st raw := by
  cases bs with
  | nil => cases h
  | cons st raw =>
    simp only [decodeReply] at h
    split_ifs at h with hraw
    exact ⟨st, raw, hraw, rfl, (Except.ok.inj h).symm⟩

end Sys2Proof
end

section
/-! The obligations of 30_encoding.md. -/

namespace Sys2Proof.Settled

open Sys2Proof Sys2Proof.Machine

/-- Settles O12: a request's code is looked up again, by R10, and a status byte selects its own row. -/
theorem decodeOfEncode : Obligations.DecodeOfEncode := by
  unfold Obligations.DecodeOfEncode
  intro cc i hcc hi
  rcases Instr.format_of_wf hi with ⟨c, a, v, x, rfl⟩ | ⟨st, raw, hraw, rfl⟩
  · rw [Command.channel_instr, Command.encode_instr, decode, decodeRequest_requestBytes,
      CmdCode.lookup_code hcc]
  · rw [Status.channel_instr, Status.encode_instr, decode, decodeReply_cons hraw]

/-- Settles O11: a byte is of class U, or of the class of the command it is the code of. -/
theorem dispatchDecoderClasses : Obligations.DispatchDecoderClasses := by
  unfold Obligations.DispatchDecoderClasses
  intro cc b hcc
  refine ⟨?_, ?_, ?_, ?_⟩
  · simp [classOf_eq_iff hcc, Command.replyClass_eq_T_iff]
  · simp [classOf_eq_iff hcc, Command.replyClass_eq_I_iff]
  · simp [classOf_eq_iff hcc, Command.replyClass_eq_S_iff, and_assoc]
  · rw [classOf_eq_U_iff]
    exact forall_congr' fun _ => ne_comm

/-- Settles O13: what a channel's decoder accepts is an encoding, of a command's request or of a status row. -/
theorem encodeOfDecode : Obligations.EncodeOfDecode := by
  unfold Obligations.EncodeOfDecode
  intro cc ch bs i h
  cases ch with
  | request =>
    obtain ⟨c, a, v, x, rfl, rfl⟩ := decodeRequest_ok h
    exact ⟨Command.wf_instr c a v x, Command.channel_instr c a v x, Command.encode_instr cc c a v x⟩
  | reply =>
    obtain ⟨st, raw, hraw, rfl, rfl⟩ := decodeReply_ok h
    exact ⟨(Status.wf_instr st raw).trans hraw, Status.channel_instr st raw, Status.encode_instr cc st raw⟩

/-- Settles O14: the request is an encoding, by the code 0x23 of R10, and the replies have 21 bytes behind the status
byte. -/
theorem writtenWordsDecode : Obligations.WrittenWordsDecode := by
  unfold Obligations.WrittenWordsDecode
  refine ⟨fun cc hcc => ?_, fun _ => decodeReply_cons (st := 0x80) (raw := List.replicate 21 0) rfl,
    fun _ => decodeReply_cons (st := 0x81) (raw := List.replicate 21 0) rfl⟩
  have hbytes : encode cc (.setOutputVoltage 5 true 0x04030201) =
      [0x23, 0x05, 0x01, 0x02, 0x03, 0x04, 0x01] := by
    rw [encode, CmdCode.code_setOutputVoltage hcc]
    rfl
  rw [← hbytes]
  exact decodeOfEncode cc (.setOutputVoltage 5 true 0x04030201) hcc rfl

end Sys2Proof.Settled
end

section
/-! The checksum as a sum, and what a change of one byte does to it (R100, R101, R104, R109). -/

namespace Sys2Proof.Machine

open Sys2Proof

/-! ### Bytes of a sequence -/

theorem byteAt_set_same {f : List Byte} {i : Nat} (hi : i < f.length) (b : Byte) : byteAt (f.set i b) i = b := by
  simp [byteAt, hi]

theorem byteAt_set_other (f : List Byte) {i k : Nat} (h : i ≠ k) (b : Byte) :
    byteAt (f.set i b) k = byteAt f k := by
  simp [byteAt, List.getElem?_set_ne h]

theorem byteAt_eq_getElem {f : List Byte} {i : Nat} (hi : i < f.length) : byteAt f i = f[i] := by
  simp [byteAt, hi]

/-- Byte sequences of one length that agree byte by byte are equal. -/
theorem ext_byteAt {f g : List Byte} (hlen : f.length = g.length)
    (h : ∀ k, k < f.length → byteAt f k = byteAt g k) : f = g := by
  refine List.ext_getElem hlen fun k hf hg => ?_
  rw [← byteAt_eq_getElem hf, ← byteAt_eq_getElem hg, h k hf]

/-! ### The checksum -/

/-- Reducing once gives what reducing after every addition gives (R101). -/
theorem sum8_eq_sum (l : List Byte) : sum8 l = l.sum := by
  induction l with
  | nil => rfl
  | cons b l ih => rw [sum8_cons, ih, List.sum_cons]

/-- The sum as an integer is at most 255 for each byte. -/
theorem sum_toNat_le (l : List Byte) : (l.map BitVec.toNat).sum ≤ l.length * 255 := by
  have hbyte : ∀ n ∈ l.map BitVec.toNat, n ≤ 255 := fun n hn => by
    obtain ⟨b, -, rfl⟩ := List.mem_map.mp hn
    exact Nat.le_of_lt_succ b.isLt
  simpa using List.sum_le_card_nsmul _ 255 hbyte

theorem verify_iff {f : List Byte} : verify f = true ↔ cksum f = byteAt f 25 := by
  simp [verify]

/-- A summed byte that changes moves the checksum by the difference. -/
theorem cksum_set {f : List Byte} {i : Nat} (hf : f.length = 26) (hi : i < 25) (b : Byte) :
    cksum (f.set i b) = cksum f + (b - byteAt f i) := by
  have hget : (f.take 25).getD i 0 = byteAt f i := by simp [byteAt, hi]
  rw [cksum, List.take_set, sum8_set (by simp [hf, hi]), hget, cksum]

/-- The checksum byte is not summed. -/
theorem cksum_set_ck (f : List Byte) (b : Byte) : cksum (f.set 25 b) = cksum f := by
  rw [cksum, List.take_set_of_le (Nat.le_refl 25), cksum]

/-! ### What a valid frame's flag says after a change (R109) -/

section
variable {f : List Byte} {i k : Nat}

/-- A change of one summed byte is always detected. -/
theorem verify_set_iff (hf : f.length = 26) (hv : verify f = true) (hi : i < 25) (b : Byte) :
    verify (f.set i b) = true ↔ b = byteAt f i := by
  rw [verify_iff, cksum_set hf hi, byteAt_set_other f (by omega), ← verify_iff.mp hv, add_eq_left, sub_eq_zero]

/-- A change of the checksum byte alone is always detected. -/
theorem verify_set_ck_iff (hf : f.length = 26) (hv : verify f = true) (b : Byte) :
    verify (f.set 25 b) = true ↔ b = byteAt f 25 := by
  rw [verify_iff, cksum_set_ck, byteAt_set_same (by omega), verify_iff.mp hv, eq_comm]

/-- Changes of two summed bytes go unseen exactly when their sum stays. -/
theorem verify_set_set_iff (hf : f.length = 26) (hv : verify f = true) (hi : i < 25) (hk : k < 25) (hik : i ≠ k)
    (b c : Byte) :
    verify ((f.set i b).set k c) = true ↔ b + c = byteAt f i + byteAt f k := by
  have hsum : cksum ((f.set i b).set k c) = byteAt f 25 + (b + c - (byteAt f i + byteAt f k)) := by
    rw [cksum_set (by simpa using hf) hk, cksum_set hf hi, byteAt_set_other f hik, verify_iff.mp hv]
    abel
  rw [verify_iff, hsum, byteAt_set_other _ (by omega), byteAt_set_other f (by omega), add_eq_left, sub_eq_zero]

/-- A change of a summed byte and the checksum byte goes unseen exactly when both move alike. -/
theorem verify_set_set_ck_iff (hf : f.length = 26) (hv : verify f = true) (hi : i < 25) (b c : Byte) :
    verify ((f.set i b).set 25 c) = true ↔ byteAt f 25 + (b - byteAt f i) = c := by
  rw [verify_iff, cksum_set_ck, cksum_set hf hi, byteAt_set_same (by simp [hf]), verify_iff.mp hv]

end

/-- Flipping one bit changes a byte. -/
theorem flipBit_ne {j : Nat} (hj : j < 8) (b : Byte) : b ^^^ BitVec.ofNat 8 (2 ^ j) ≠ b := by
  intro h
  have hzero : BitVec.ofNat 8 (2 ^ j) = 0#8 := by
    rw [← BitVec.xor_right_inj b, h, BitVec.xor_zero]
  have hmod : 2 ^ j % 2 ^ 8 = 0 := by simpa using congrArg BitVec.toNat hzero
  have hlt : 2 ^ j < 2 ^ 8 := Nat.pow_lt_pow_right (by decide) hj
  rw [Nat.mod_eq_of_lt hlt] at hmod
  exact absurd hmod (Nat.two_pow_pos j).ne'

end Sys2Proof.Machine
end

section
/-! ENCODE and DECODE (R102, R103, R108, R110): what a built frame holds, and a frame as the bytes it was cut into. -/

namespace Sys2Proof.Machine

open Sys2Proof

theorem encodeFrame_of_length {p : List Byte} (a c : Byte) (hp : p.length = 22) :
    encodeFrame a c p = some (frameOf a c p) :=
  if_pos hp

/-- ENCODE refuses exactly the payloads that are not 22 bytes (R110). -/
theorem encodeFrame_eq_none_iff {a c : Byte} {p : List Byte} : encodeFrame a c p = none ↔ p.length ≠ 22 := by
  simp [encodeFrame]

theorem encodeFrame_eq_some_iff {a c : Byte} {p f : List Byte} :
    encodeFrame a c p = some f ↔ p.length = 22 ∧ f = frameOf a c p := by
  simp [encodeFrame, eq_comm]

theorem decodeFrame_of_length {f : List Byte} (hf : f.length = 26) : decodeFrame f = some (partsOf f) :=
  if_pos hf

/-- The payload bytes of a built frame stand behind its three header bytes. -/
theorem byteAt_frameOf_payload {p : List Byte} (a c : Byte) {k : Nat} (hk : k < p.length) :
    byteAt (frameOf a c p) (3 + k) = byteAt p k := by
  simp [byteAt, frameOf, Nat.add_comm 3 k, List.getElem?_append_left hk]

theorem verify_frameOf {p : List Byte} (a c : Byte) (hp : p.length = 22) : verify (frameOf a c p) = true := by
  rw [verify_iff, cksum_frameOf a c hp, byteAt_frameOf_ck a c hp]

/-- DECODE gives a built frame's operands back with both flags (R108). -/
theorem partsOf_frameOf {p : List Byte} (a c : Byte) (hp : p.length = 22) :
    partsOf (frameOf a c p) =
      { address := a, rcmd := c, payload := p, checksumValid := true, preambleValid := true } := by
  simp [partsOf, payloadOf_frameOf a c hp, verify_frameOf a c hp, preambleValid]

/-- The summed bytes of a frame are its header and its payload window. -/
theorem take_eq_header_payload {f : List Byte} (hf : f.length = 26) :
    f.take 25 = byteAt f 0 :: byteAt f 1 :: byteAt f 2 :: payloadOf f := by
  match f, hf with
  | b0 :: b1 :: b2 :: l, _ => rfl

/-- A frame that verifies and has the preamble is built from its own parts (R108). -/
theorem frameOf_parts {f : List Byte} (hf : f.length = 26) (hv : verify f = true) (hpre : byteAt f 0 = 0xAA) :
    frameOf (byteAt f 1) (byteAt f 2) (payloadOf f) = f := by
  have hhead : Config.preamble :: byteAt f 1 :: byteAt f 2 :: payloadOf f = f.take 25 := by
    rw [take_eq_header_payload hf, hpre]
  have hlast : sum8 (f.take 25) = f[25] := (verify_iff.mp hv).trans (byteAt_eq_getElem (by omega))
  rw [frameOf, hhead, hlast, List.take_append_getElem, List.take_of_length_le (by omega)]

end Sys2Proof.Machine
end

section
/-! The argument in the payload (R106, R107). -/

namespace Sys2Proof.Machine

open Sys2Proof

/-- Byte `k` of a word, as a quotient and as a slice of its bits. -/
theorem ofNat_toNat_div (x : Word) (k : Nat) :
    BitVec.ofNat 8 (x.toNat / 256 ^ k) = x.extractLsb' (8 * k) 8 := by
  apply BitVec.eq_of_toNat_eq
  rw [BitVec.toNat_ofNat, BitVec.extractLsb'_toNat, Nat.shiftRight_eq_div_pow, Nat.pow_mul]

/-- The four bytes of a word, low byte first. -/
theorem le32_eq (x : Word) :
    le32 x = [x.extractLsb' 0 8, x.extractLsb' 8 8, x.extractLsb' 16 8, x.extractLsb' 24 8] := by
  have hbyte : ∀ k, k < 4 → byteAt (le32 x) k = x.extractLsb' (8 * k) 8 := fun k hk =>
    (leBytes_getD x.toNat hk).trans (ofNat_toNat_div x k)
  refine ext_byteAt (le32_length x) fun k hk => ?_
  rw [le32_length] at hk
  rw [hbyte k hk]
  interval_cases k <;> rfl

theorem packArg_true (x : Word) : packArg true x = le32 x ++ zeros 18 := rfl

theorem packArg_false (x : Word) : packArg false x = zeros 22 := rfl

/-- The bytes UNPACKARG reads are the first four of the payload. -/
theorem bytesAt_zero_four {p : List Byte} (hp : 4 ≤ p.length) :
    bytesAt p 0 4 = [byteAt p 0, byteAt p 1, byteAt p 2, byteAt p 3] := by
  match p, hp with
  | b0 :: b1 :: b2 :: b3 :: l, _ => rfl

theorem unpackArg_toNat {p : List Byte} (hp : 4 ≤ p.length) : (unpackArg p).toNat = leNat (bytesAt p 0 4) :=
  toNat_ofNat_leNat (bytesAt_length (by omega)) rfl

theorem unpackArg_packArg (x : Word) : unpackArg (packArg true x) = x := by
  have hbytes : bytesAt (packArg true x) 0 4 = le32 x :=
    bytesAt_append (a := []) (c := zeros 18) rfl (le32_length x)
  apply BitVec.eq_of_toNat_eq
  rw [unpackArg_toNat (by simp), hbytes, leNat_le32]

end Sys2Proof.Machine
end

section
/-! The obligations of 40_frame_codec.md. -/

namespace Sys2Proof.Settled

open Sys2Proof Sys2Proof.Machine

/-- Settles O1: reduced once or after every addition, the checksum is one sum of bytes, which no order changes. -/
theorem checksumIsRunningSum : Obligations.ChecksumIsRunningSum := by
  unfold Obligations.ChecksumIsRunningSum
  intro f hf
  refine ⟨?_, fun g hg => ?_, ?_⟩
  · rw [cksum, sum8_eq_sum, List.sum_eq_foldl]
  · rw [cksum, cksum, sum8_eq_sum, sum8_eq_sum, hg.sum_eq]
  · simpa [hf] using sum_toNat_le (f.take 25)

/-- Settles O2: bytes 1, 2 and 3 to 24 are the operands copied, so they determine them. -/
theorem encodeFrameLayout : Obligations.EncodeFrameLayout := by
  unfold Obligations.EncodeFrameLayout
  refine ⟨fun a c p hp => ?_, fun a c a' c' p p' f f' hf hf' hagree => ?_⟩
  · have hsum := verify_iff.mp (verify_frameOf a c hp)
    exact ⟨frameOf a c p, encodeFrame_of_length a c hp, frameOf_length a c hp, rfl, rfl, rfl,
      fun k hk => byteAt_frameOf_payload a c (hp ▸ hk), hsum.symm⟩
  · obtain ⟨hp, rfl⟩ := encodeFrame_eq_some_iff.mp hf
    obtain ⟨hp', rfl⟩ := encodeFrame_eq_some_iff.mp hf'
    refine ⟨hagree 1 (by omega) (by omega), hagree 2 (by omega) (by omega),
      ext_byteAt (hp.trans hp'.symm) fun k hk => ?_⟩
    have hk' : k < p'.length := by omega
    calc byteAt p k
      _ = byteAt (frameOf a c p) (3 + k) := (byteAt_frameOf_payload a c hk).symm
      _ = byteAt (frameOf a' c' p') (3 + k) := hagree (3 + k) (by omega) (by omega)
      _ = byteAt p' k := byteAt_frameOf_payload a' c' hk'

/-- Settles O4: a built frame decodes to its operands, and a valid frame is built from what it decodes to. -/
theorem frameRoundTrip : Obligations.FrameRoundTrip := by
  unfold Obligations.FrameRoundTrip
  refine ⟨fun a c p hp => ⟨frameOf a c p, encodeFrame_of_length a c hp, ?_⟩, fun f hf hv hpre => ?_⟩
  · rw [decodeFrame_of_length (frameOf_length a c hp), partsOf_frameOf a c hp]
  · rw [encodeFrame_of_length _ _ (payloadOf_length hf), frameOf_parts hf hv hpre]

/-- Settles O5: one byte changed is always seen, and two bytes exactly when their changes do not cancel. -/
theorem checksumSensitivity : Obligations.ChecksumSensitivity := by
  unfold Obligations.ChecksumSensitivity
  intro f hf hv
  refine ⟨fun i j hi hj => ?_, fun b hb => ?_, fun i k hi hk => ?_, fun i k d hi hk hik => ?_, fun i d hi => ?_⟩
  · exact Bool.eq_false_iff.mpr fun h => flipBit_ne hj _ ((verify_set_iff hf hv hi _).mp h)
  · exact Bool.eq_false_iff.mpr fun h => hb ((verify_set_ck_iff hf hv b).mp h)
  · rcases eq_or_ne i k with rfl | hik
    · rw [List.set_set]
      exact (verify_set_iff hf hv hi _).mpr rfl
    · exact (verify_set_set_iff hf hv hi hk hik _ _).mpr (add_comm _ _)
  · exact (verify_set_set_iff hf hv hi hk hik _ _).mpr (by abel)
  · exact (verify_set_set_ck_iff hf hv hi _ _).mpr (by abel)

/-- Settles O7: the four bytes read are the four bytes packed. -/
theorem argumentRoundTrip : Obligations.ArgumentRoundTrip := by
  unfold Obligations.ArgumentRoundTrip
  refine ⟨fun p hp => ?_, unpackArg_packArg⟩
  have hp4 : 4 ≤ p.length := by omega
  rw [unpackArg_toNat hp4, bytesAt_zero_four hp4]
  simp only [leNat]
  omega

/-- Settles O3: the length test of ENCODE is its only refusal, and PACKARG passes it. -/
theorem wrongPayloadLengthRefused : Obligations.WrongPayloadLengthRefused := by
  unfold Obligations.WrongPayloadLengthRefused
  exact ⟨fun _ _ _ => encodeFrame_eq_none_iff, packArg_length⟩

/-- Settles O6: the bytes in front of the zeros are those of the argument, all zero when it is 0. -/
theorem argumentPacking : Obligations.ArgumentPacking := by
  unfold Obligations.ArgumentPacking
  intro x
  refine ⟨?_, packArg_false x, ?_⟩
  · rw [packArg_true, le32_eq]
    rfl
  · rw [packArg_true, packArg_false]
    rfl

end Sys2Proof.Settled
end

section
/-! A good reply as its class reads it (R150, R188). -/

namespace Sys2Proof.Machine

open Sys2Proof

theorem preambleValid_frame {m : Memory} : preambleValid m.frame = true ↔ m.read 0 = 0xAA := by
  rw [preambleValid, byteAt, Memory.frame_getD m (by decide), beq_iff_eq]

/-- Checksum and preamble good, the judgement is the reading of the payload. -/
theorem judgement_of_good {cls : ReplyClass} {f : List Byte} (hv : verify f = true)
    (hpre : preambleValid f = true) : judgement cls f = interpret cls (payloadOf f) := by
  simp [judgement, hv, hpre]

theorem exchange_decoding {s : State} {kind : ResKind} {code : Byte} (hp : s.phase = .decoding)
    (hj : judgement (replyClassOf s) s.fb.frame = some (kind, code)) :
    exchange s = .next (judgedState kind code s) := by
  simp only [exchange, hp, decodeStep_eq hp, hj]

/-- The class of the original command, read from the latch. -/
theorem replyClassOf_held {c : Command} {s : State} (hcc : s.cmdCode.wf = true)
    (hcmd : s.cmdreg = s.cmdCode.code c) : replyClassOf s = c.replyClass := by
  rw [replyClassOf, hcmd, classOf_code hcc]

/-- A command in `Decoding` records a good reply as its class reads the payload. -/
theorem exec_takes_good_reply {c : Command} {a : Byte} {v : Bool} {x : Word} {s : State} {kind : ResKind}
    {code : Byte} (hcc : s.cmdCode.wf = true) (hp : s.phase = .decoding)
    (hold : holdsRequest (s.cmdCode.code c) a v x s = true) (hv : verify s.fb.frame = true)
    (hpre : preambleValid s.fb.frame = true)
    (hint : interpret c.replyClass (payloadOf s.fb.frame) = some (kind, code)) :
    exec (c.instr a v x) s = .next (judgedState kind code s) := by
  obtain ⟨hcmd, -, -, -⟩ := holdsRequest_iff.mp hold
  rw [exec_instr, request_held hold (by simp [hp]) (by simp [hp])]
  apply exchange_decoding hp
  rw [judgement_of_good hv hpre, replyClassOf_held hcc hcmd, hint]

/-- What a success on a good reply writes: nothing but flags, result, phase and the event. -/
theorem judgedState_of_success {s : State} {kind : ResKind} (code : Byte) (hk : kind.success = true)
    (hv : verify s.fb.frame = true) (hpre : preambleValid s.fb.frame = true) :
    judgedState kind code s =
      { s with ckOk := true, preOk := true, resKind := kind, resCode := code, phase := .success,
               trace := .judged kind code :: s.trace } := by
  simp [judgedState, hk, hv, hpre]

end Sys2Proof.Machine
end

section
/-! A schedule of input samples consumed edge by edge (R244, log entries 3 and 14). -/

namespace Sys2Proof.Machine

open Sys2Proof

/-- The state with other input samples: the ports now, and those still to come. -/
def feed (p : Inputs) (ps : List Inputs) (s : State) : State := { s with ports := p, pending := ps }

/-- The samples of the coming edges begin with these. -/
def Upcoming (l : List Inputs) (s : State) : Prop := ∃ later, s.ports :: s.pending = l ++ later

theorem Upcoming.ports_eq {p : Inputs} {l : List Inputs} {s : State} (h : Upcoming (p :: l) s) : s.ports = p :=
  let ⟨_, h⟩ := h
  List.head_eq_of_cons_eq h

theorem nextInputs_upcoming {p : Inputs} {l : List Inputs} {s : State} (h : Upcoming (p :: l) s) :
    ∃ q qs, nextInputs s = feed q qs s ∧ Upcoming l (feed q qs s) := by
  obtain ⟨later, h⟩ := h
  have hl : s.pending = l ++ later := List.tail_eq_of_cons_eq h
  cases hpend : s.pending with
  | nil =>
    have hnil : l = [] := (List.append_eq_nil_iff.mp (hl.symm.trans hpend)).1
    refine ⟨s.ports, s.pending, ?_, s.ports :: s.pending, by rw [hnil]; rfl⟩
    simp only [nextInputs, hpend, feed]
    rw [← hpend]
  | cons q qs => exact ⟨q, qs, by simp only [nextInputs, hpend, feed], later, hpend.symm.trans hl⟩

theorem run_succ {n : Nat} {s t : State} (h : step s = .next t) : run (n + 1) s = run n t := by
  simp only [run, h]

theorem run_add {m : Nat} (n : Nat) {s t : State} (h : run m s = .next t) : run (m + n) s = run n t := by
  induction m generalizing s with
  | zero => cases h; rw [Nat.zero_add]
  | succ m ih =>
    rw [Nat.add_right_comm]
    rw [run] at h ⊢
    cases hs : step s with
    | next u => rw [hs] at h; exact ih h
    | fault r => rw [hs] at h; cases h
    | refused r => rw [hs] at h; cases h

/-- A step at a scheduled edge: the edge, and the schedule one sample shorter. -/
theorem run_scheduled_edge {p : Inputs} {l : List Inputs} {s u : State} (n : Nat) (hup : Upcoming (p :: l) s)
    (he : edge s = .next u) (hports : u.ports = s.ports) (hpend : u.pending = s.pending) :
    ∃ q qs, run (n + 1) s = run n (feed q qs u) ∧ Upcoming l (feed q qs u) := by
  have hu : Upcoming (p :: l) u := by rwa [Upcoming, hports, hpend]
  obtain ⟨q, qs, hnext, hl⟩ := nextInputs_upcoming hu
  exact ⟨q, qs, run_succ (step_next_iff.mpr ⟨u, he, hnext.symm⟩), hl⟩

end Sys2Proof.Machine
end

section
/-! The phases of one exchange run to their end: ACCEPT and ENCODE, TX of the bytes left, RX of the bytes left, DECODE
(R181 to R183, R185, R188). -/

namespace Sys2Proof.Machine

open Sys2Proof

/-! ### One edge -/

/-- In `Idle` the edge is `exec` of the request that the ports decode to. -/
theorem edge_of_offered {s : State} {i : Instr} (hr : s.ports.rst = false) (hp : s.phase = .idle)
    (hv : s.ports.reqValid = true) (hdec : decode s.cmdCode .request (portRequest s.ports) = .ok i) :
    edge s = exec i s := by
  simp [edge, fetch, hr, hp, hv, hdec, Except.toOption]

theorem exec_idle {c : Command} {a : Byte} {v : Bool} {x : Word} {s : State} (hp : s.phase = .idle) :
    exec (c.instr a v x) s = .next (latch (s.cmdCode.code c) a v x s) := by
  rw [exec_instr, request_idle hp]

theorem edge_encoding {s : State} (hr : s.ports.rst = false) (hp : s.phase = .encoding) :
    edge s = .next (encodeStep s) := by
  simp [edge_eq, hr, hp, exchange]

theorem edge_decoding {s : State} {kind : ResKind} {code : Byte} (hr : s.ports.rst = false)
    (hp : s.phase = .decoding) (hj : judgement (replyClassOf s) s.fb.frame = some (kind, code)) :
    edge s = .next (judgedState kind code s) := by
  simp [edge_eq, hr, hp, exchange_decoding hp hj]

theorem edge_tx {s : State} (hp : s.phase = .writing) (htx : s.ports.takesByte) (hi : s.idx.toNat < 26) :
    edge s = .next (txByte (s.fb.read s.idx.toNat) s) := by
  obtain ⟨hr, herr, hready⟩ := htx
  rw [edge_writing hr hp]
  simp [writingStep, herr, hready, Memory.read?_of_lt hi]

theorem edge_rx {s : State} {b : Byte} (hp : s.phase = .awaitingReply ∨ s.phase = .reading)
    (hrx : s.ports.offersByte b) (hi : s.idx.toNat < 26) :
    edge s = .next (rxByte b (s.fb.write s.idx.toNat b) s) := by
  obtain ⟨hr, herr, hvalid, rfl⟩ := hrx
  rw [edge_reading hr hp]
  simp [readingStep, herr, hvalid, Memory.write?_of_lt _ hi]

/-- Before byte 25 the index counts up without wrapping. -/
theorem idx_succ_toNat {i : BitVec 5} (hi : i.toNat < 25) : (i + 1).toNat = i.toNat + 1 := by
  bv_omega

/-! ### A whole phase -/

/-- After the last TX, these bytes having been handed over (R183). -/
def sentState (bytes : List Byte) (s : State) : State :=
  { s with idx := 0, phase := .awaitingReply, trace := (bytes.map .txByte).reverse ++ s.trace }

/-- After the last RX, these bytes having been stored from IDX on (R185). -/
def receivedState (bytes : List Byte) (s : State) : State :=
  { s with fb := s.fb.store s.idx.toNat bytes, idx := 0, phase := .decoding,
           trace := (bytes.map .rxByte).reverse ++ s.trace }

theorem txByte_last {s : State} (b : Byte) (h : s.idx = 25) : txByte b s = sentState [b] s := by
  rw [txByte, if_pos h]
  rfl

theorem txByte_more {s : State} (b : Byte) (h : s.idx ≠ 25) :
    txByte b s = { s with idx := s.idx + 1, trace := .txByte b :: s.trace } := by
  rw [txByte, if_neg h]

theorem sentState_txByte {s : State} (b : Byte) (bytes : List Byte) (p : Inputs) (ps : List Inputs)
    (h : s.idx ≠ 25) : sentState bytes (feed p ps (txByte b s)) = feed p ps (sentState (b :: bytes) s) := by
  rw [txByte_more b h]
  simp [sentState, feed]

theorem rxByte_last {s : State} (b : Byte) (h : s.idx = 25) :
    rxByte b (s.fb.write s.idx.toNat b) s = receivedState [b] s := by
  rw [rxByte, if_pos h]
  rfl

theorem rxByte_more {s : State} (b : Byte) (m : Memory) (h : s.idx ≠ 25) :
    rxByte b m s = { s with fb := m, idx := s.idx + 1, phase := .reading, trace := .rxByte b :: s.trace } := by
  rw [rxByte, if_neg h]

theorem receivedState_rxByte {s : State} (b : Byte) (bytes : List Byte) (p : Inputs) (ps : List Inputs)
    (hi : s.idx.toNat < 25) :
    receivedState bytes (feed p ps (rxByte b (s.fb.write s.idx.toNat b) s)) =
      feed p ps (receivedState (b :: bytes) s) := by
  rw [rxByte_more b _ (by bv_omega)]
  simp only [receivedState, feed, idx_succ_toNat hi, Memory.store, List.map_cons, List.reverse_cons, List.append_assoc,
    List.singleton_append]

/-- With a transport that takes the bytes left, `Writing` hands them over in index order. -/
theorem run_writing {txs rest : List Inputs} {s : State} (hup : Upcoming (txs ++ rest) s)
    (htx : ∀ p ∈ txs, p.takesByte) (hp : s.phase = .writing) (hi : s.idx.toNat < 26)
    (hlen : s.idx.toNat + txs.length = 26) :
    ∃ q qs, run txs.length s = .next (feed q qs (sentState (s.fb.load s.idx.toNat txs.length) s)) ∧
      Upcoming rest (feed q qs (sentState (s.fb.load s.idx.toNat txs.length) s)) := by
  induction txs generalizing s with
  | nil => rw [List.length_nil] at hlen; omega
  | cons p txs ih =>
    have hedge := edge_tx hp (hup.ports_eq ▸ htx p List.mem_cons_self) hi
    obtain ⟨q, qs, hrun, hup'⟩ := run_scheduled_edge txs.length hup hedge (by simp) (by simp)
    rw [List.length_cons] at hlen ⊢
    rw [hrun, Memory.load]
    by_cases hlast : s.idx = 25
    · have hidx : s.idx.toNat = 25 := by rw [hlast]; rfl
      have hnil : txs = [] := List.length_eq_zero_iff.mp (by omega)
      subst hnil
      rw [txByte_last _ hlast] at hup' ⊢
      exact ⟨q, qs, rfl, hup'⟩
    · have hlt : s.idx.toNat < 25 := by bv_omega
      have hidx : (feed q qs (txByte (s.fb.read s.idx.toNat) s)).idx.toNat = s.idx.toNat + 1 :=
        (congrArg BitVec.toNat ((txByte_idx _ s).trans (if_neg hlast))).trans (idx_succ_toNat hlt)
      have hphase : (feed q qs (txByte (s.fb.read s.idx.toNat) s)).phase = .writing :=
        (txByte_phase _ s).trans ((if_neg hlast).trans hp)
      have hfb : (feed q qs (txByte (s.fb.read s.idx.toNat) s)).fb = s.fb := txByte_fb _ s
      obtain ⟨q', qs', hrun', hup''⟩ := ih hup' (fun p' hp' => htx p' (List.mem_cons_of_mem p hp')) hphase
        (by omega) (by omega)
      rw [hidx, hfb, sentState_txByte _ _ _ _ hlast] at hrun' hup''
      exact ⟨q', qs', hrun', hup''⟩

/-- With a transport that offers the bytes left, the reading phases store them in index order. -/
theorem run_reading {rxs rest : List Inputs} {bytes : List Byte} {s : State} (hup : Upcoming (rxs ++ rest) s)
    (hrx : List.Forall₂ Inputs.offersByte rxs bytes) (hp : s.phase = .awaitingReply ∨ s.phase = .reading)
    (hi : s.idx.toNat < 26) (hlen : s.idx.toNat + bytes.length = 26) :
    ∃ q qs, run bytes.length s = .next (feed q qs (receivedState bytes s)) ∧
      Upcoming rest (feed q qs (receivedState bytes s)) := by
  induction hrx generalizing s with
  | nil => rw [List.length_nil] at hlen; omega
  | @cons p b rxs bytes hb _ ih =>
    have hedge := edge_rx hp (hup.ports_eq ▸ hb) hi
    obtain ⟨q, qs, hrun, hup'⟩ := run_scheduled_edge bytes.length hup hedge (by simp) (by simp)
    rw [List.length_cons] at hlen ⊢
    rw [hrun]
    by_cases hlast : s.idx = 25
    · have hidx : s.idx.toNat = 25 := by rw [hlast]; rfl
      have hnil : bytes = [] := List.length_eq_zero_iff.mp (by omega)
      subst hnil
      cases ‹List.Forall₂ _ rxs []›
      rw [rxByte_last _ hlast] at hup' ⊢
      exact ⟨q, qs, rfl, hup'⟩
    · have hlt : s.idx.toNat < 25 := by bv_omega
      have hidx : (feed q qs (rxByte b (s.fb.write s.idx.toNat b) s)).idx.toNat = s.idx.toNat + 1 :=
        (congrArg BitVec.toNat ((rxByte_idx b _ s).trans (if_neg hlast))).trans (idx_succ_toNat hlt)
      have hphase : (feed q qs (rxByte b (s.fb.write s.idx.toNat b) s)).phase = .reading :=
        (rxByte_phase b _ s).trans (if_neg hlast)
      obtain ⟨q', qs', hrun', hup''⟩ := ih hup' (.inr hphase) (by omega) (by omega)
      rw [receivedState_rxByte _ _ _ _ hlt] at hrun' hup''
      exact ⟨q', qs', hrun', hup''⟩

/-! ### The block after ENCODE, after the last TX, and after the last RX -/

/-- After ACCEPT and ENCODE of a command's request (R181, R182). -/
def builtState (c : Command) (a : Byte) (v : Bool) (x : Word) (s : State) : State :=
  encodeStep (latch (s.cmdCode.code c) a v x s)

theorem builtState_fb (c : Command) (a : Byte) (v : Bool) (x : Word) (s : State) :
    (builtState c a v x s).fb = s.fb.store 0 (commandFrame s.cmdCode c a v x) := rfl

theorem builtState_frame (c : Command) (a : Byte) (v : Bool) (x : Word) {s : State} (hwf : s.fb.wf = true) :
    (builtState c a v x s).fb.frame = commandFrame s.cmdCode c a v x :=
  Memory.frame_store hwf (commandFrame_length s.cmdCode c a v x)

theorem builtState_fb_wf (c : Command) (a : Byte) (v : Bool) (x : Word) {s : State} (hwf : s.fb.wf = true) :
    (builtState c a v x s).fb.wf = true := by
  rw [builtState_fb]
  exact Memory.store_wf hwf (by simp)

/-- The second edge of a command requested in `Idle` builds its frame. -/
theorem exec_latched (c : Command) (a : Byte) (v : Bool) (x : Word) (s : State) :
    exec (c.instr a v x) (latch (s.cmdCode.code c) a v x s) = .next (builtState c a v x s) := by
  have hold : holdsRequest (s.cmdCode.code c) a v x (latch (s.cmdCode.code c) a v x s) = true :=
    holdsRequest_iff.mpr ⟨rfl, rfl, rfl, rfl⟩
  rw [exec_instr, request_held hold (by simp) (by simp)]
  rfl

/-- After the request is sent as well (R183). -/
def requestedState (c : Command) (a : Byte) (v : Bool) (x : Word) (s : State) : State :=
  sentState (commandFrame s.cmdCode c a v x) (builtState c a v x s)

/-- After the reply is received as well (R185). -/
def repliedState (c : Command) (a : Byte) (v : Bool) (x : Word) (reply : List Byte) (s : State) : State :=
  receivedState reply (requestedState c a v x s)

theorem requestedState_trace (c : Command) (a : Byte) (v : Bool) (x : Word) (s : State) :
    (requestedState c a v x s).trace =
      (.accepted (s.cmdCode.code c) a v x :: (commandFrame s.cmdCode c a v x).map .txByte).reverse ++ s.trace := by
  simp [requestedState, sentState, builtState]

theorem repliedState_trace (c : Command) (a : Byte) (v : Bool) (x : Word) (reply : List Byte) (s : State) :
    (repliedState c a v x reply s).trace =
      (.accepted (s.cmdCode.code c) a v x ::
        ((commandFrame s.cmdCode c a v x).map .txByte ++ reply.map .rxByte)).reverse ++ s.trace := by
  simp [repliedState, receivedState, requestedState_trace]

theorem repliedState_frame (c : Command) (a : Byte) (v : Bool) (x : Word) {reply : List Byte} {s : State}
    (hwf : s.fb.wf = true) (hreply : reply.length = 26) : (repliedState c a v x reply s).fb.frame = reply :=
  Memory.frame_store (builtState_fb_wf c a v x hwf) hreply

theorem repliedState_replyClassOf (c : Command) (a : Byte) (v : Bool) (x : Word) (reply : List Byte) {s : State}
    (hcc : s.cmdCode.wf = true) : replyClassOf (repliedState c a v x reply s) = c.replyClass :=
  replyClassOf_held (s := repliedState c a v x reply s) hcc rfl

/-! ### The streams after a run of events -/

theorem txStream_append {s t : State} {es : List Event} (h : t.trace = es.reverse ++ s.trace) :
    t.txStream = s.txStream ++ es.filterMap Event.sent? := by
  rw [txStream_eq, txStream_eq, h, List.reverse_append, List.reverse_reverse, List.filterMap_append]

theorem rxTaken_append {s t : State} {es : List Event} (h : t.trace = es.reverse ++ s.trace) :
    t.rxTaken = s.rxTaken ++ es.filterMap Event.received? := by
  rw [rxTaken_eq, rxTaken_eq, h, List.reverse_append, List.reverse_reverse, List.filterMap_append]

@[simp] theorem sent?_comp_txByte : Event.sent? ∘ Event.txByte = some := rfl

@[simp] theorem sent?_comp_rxByte : Event.sent? ∘ Event.rxByte = fun _ => none := rfl

@[simp] theorem received?_comp_txByte : Event.received? ∘ Event.txByte = fun _ => none := rfl

@[simp] theorem received?_comp_rxByte : Event.received? ∘ Event.rxByte = some := rfl

theorem requestedState_txStream (c : Command) (a : Byte) (v : Bool) (x : Word) (s : State) :
    (requestedState c a v x s).txStream = s.txStream ++ commandFrame s.cmdCode c a v x := by
  rw [txStream_append (requestedState_trace c a v x s)]
  simp [List.filterMap_cons, Event.sent?]

theorem repliedState_streams (c : Command) (a : Byte) (v : Bool) (x : Word) (reply : List Byte) (s : State) :
    (repliedState c a v x reply s).txStream = s.txStream ++ commandFrame s.cmdCode c a v x ∧
      (repliedState c a v x reply s).rxTaken = s.rxTaken ++ reply := by
  rw [txStream_append (repliedState_trace c a v x reply s), rxTaken_append (repliedState_trace c a v x reply s)]
  simp [List.filterMap_cons, Event.sent?, Event.received?]

/-- A judgement is on neither stream. -/
theorem judgedState_streams (kind : ResKind) (code : Byte) (s : State) :
    (judgedState kind code s).txStream = s.txStream ∧ (judgedState kind code s).rxTaken = s.rxTaken :=
  streams_of_noStreamEvent (.inr ⟨.judged kind code, rfl, rfl, rfl⟩)

/-! ### An exchange run from its request -/

section

variable {c : Command} {a : Byte} {v : Bool} {x : Word} {s : State}

/-- A command offered in `Idle`, with a transport that takes 26 bytes: 28 steps later its frame is sent. -/
theorem run_sends_request {enc : Inputs} {txs rest : List Inputs} (hp : s.phase = .idle)
    (hwf : s.fb.wf = true) (hr : s.ports.rst = false) (hv : s.ports.reqValid = true)
    (hdec : decode s.cmdCode .request (portRequest s.ports) = .ok (c.instr a v x))
    (hpend : s.pending = enc :: (txs ++ rest)) (henc : enc.rst = false) (hlen : txs.length = 26)
    (htx : ∀ p ∈ txs, p.takesByte) :
    ∃ q qs, run 28 s = .next (feed q qs (requestedState c a v x s)) ∧
      Upcoming rest (feed q qs (requestedState c a v x s)) := by
  have hup : Upcoming (s.ports :: enc :: (txs ++ rest)) s := ⟨[], by rw [hpend, List.append_nil]⟩
  have haccept := (edge_of_offered hr hp hv hdec).trans (exec_idle hp)
  obtain ⟨q₁, qs₁, hrun₁, hup₁⟩ := run_scheduled_edge 27 hup haccept rfl rfl
  have hencode := edge_encoding (s := feed q₁ qs₁ (latch (s.cmdCode.code c) a v x s)) (hup₁.ports_eq ▸ henc) rfl
  obtain ⟨q₂, qs₂, hrun₂, hup₂⟩ := run_scheduled_edge 26 hup₁ hencode rfl rfl
  obtain ⟨q, qs, hrun, hup'⟩ := run_writing hup₂ htx rfl (Nat.zero_lt_succ 25) (by rw [hlen]; rfl)
  rw [hlen] at hrun hup'
  have hload : (s.fb.store 0 (commandFrame s.cmdCode c a v x)).load 0 26 = commandFrame s.cmdCode c a v x :=
    builtState_frame c a v x hwf
  rw [requestedState, ← hload]
  exact ⟨q, qs, hrun₁.trans (hrun₂.trans hrun), hup'⟩

/-- And 27 steps later, with a transport that offers a reply, its judgement is recorded. -/
theorem run_judges_reply {reply : List Byte} {kind : ResKind} {code : Byte} (hp : s.phase = .idle)
    (hwf : s.fb.wf = true) (hcc : s.cmdCode.wf = true) (hr : s.ports.rst = false) (hv : s.ports.reqValid = true)
    (hdec : decode s.cmdCode .request (portRequest s.ports) = .ok (c.instr a v x)) (hreply : reply.length = 26)
    (hcarry : CarriesExchange reply s.pending) (hj : judgement c.replyClass reply = some (kind, code)) :
    ∃ q qs, run 55 s = .next (feed q qs (judgedState kind code (repliedState c a v x reply s))) := by
  obtain ⟨enc, dec, txs, rxs, hpend, henc, hrst, hlen, htx, hrx⟩ := hcarry
  rw [List.append_assoc] at hpend
  obtain ⟨q₁, qs₁, hrun₁, hup₁⟩ := run_sends_request hp hwf hr hv hdec hpend henc hlen htx
  obtain ⟨q₂, qs₂, hrun₂, hup₂⟩ := run_reading hup₁ hrx (.inl rfl) (Nat.zero_lt_succ 25) (by rw [hreply]; rfl)
  rw [hreply] at hrun₂
  have hj' : judgement (replyClassOf (repliedState c a v x reply s)) (repliedState c a v x reply s).fb.frame =
      some (kind, code) := by
    rw [repliedState_replyClassOf c a v x reply hcc, repliedState_frame c a v x hwf hreply, hj]
  have hjudge := edge_decoding (s := feed q₂ qs₂ (repliedState c a v x reply s)) (hup₂.ports_eq ▸ hrst) rfl hj'
  obtain ⟨q, qs, hrun, -⟩ := run_scheduled_edge 0 hup₂ hjudge rfl rfl
  exact ⟨q, qs, (run_add 27 hrun₁).trans ((run_add 1 hrun₂).trans hrun)⟩

end

/-- The phase a judgement ends in is the one its kind asks for (R188, R207). -/
theorem judgedState_terminal (kind : ResKind) (code : Byte) (s : State) :
    ((judgedState kind code s).phase = .success ∨ (judgedState kind code s).phase = .protocolError) ∧
      ((judgedState kind code s).phase = .success ↔ kind.isSuccess) := by
  cases kind <;> simp [ResKind.success, ResKind.isSuccess]

end Sys2Proof.Machine
end

section
/-! The six operations as requests of their commands at address 0 (R85, R140 to R145). -/

namespace Sys2Proof

/-- The command an operation requests. -/
def Operation.command : Operation → Command
  | .setRemoteMode _ => .setRemoteMode
  | .setOutputPower _ => .setOutputPower
  | .setOutputVoltage _ => .setOutputVoltage
  | .setOutputCurrent _ => .setOutputCurrent
  | .readState => .read
  | .readProductInfo => .readProductInfo

/-- Whether an operation carries an argument. -/
def Operation.hasArg : Operation → Bool
  | .setRemoteMode _ | .setOutputPower _ | .setOutputVoltage _ | .setOutputCurrent _ => true
  | .readState | .readProductInfo => false

/-- What stands on `req_arg`: the argument, or for the two reads any value `x`. -/
def Operation.argOr (x : Word) : Operation → Word
  | .setRemoteMode a | .setOutputPower a | .setOutputVoltage a | .setOutputCurrent a => a
  | .readState | .readProductInfo => x

theorem Operation.expand_eq (x : Word) (op : Operation) :
    op.expand x = op.command.instr 0 op.hasArg (op.argOr x) := by
  cases op <;> rfl

end Sys2Proof
end

section
/-! The obligations of 41_request_commands.md. -/

namespace Sys2Proof.Settled

open Sys2Proof Sys2Proof.Machine

/-- Settles O50: ACCEPT, ENCODE and 26 TX, then 26 RX, then DECODE, each phase run to its end. -/
theorem exchangeDeliversRequestResult : Obligations.ExchangeDeliversRequestResult := by
  unfold Obligations.ExchangeDeliversRequestResult
  rintro c _ _ _ reply s hwf hcc hp hr hv hcmd rfl rfl rfl hreply hcarry
  have hdecode : decode s.cmdCode .request (portRequest s.ports) =
      .ok (c.instr s.ports.reqAddr s.ports.reqArgValid s.ports.reqArg) := by
    rw [decode, portRequest, decodeRequest_requestBytes, hcmd, CmdCode.lookup_code hcc]
  obtain ⟨kind, code, hj⟩ := judgement_isSome reply (classOf_code hcc c ▸ classOf_code_ne_U s.cmdCode c)
  obtain ⟨q, qs, hrun⟩ := run_judges_reply hp hwf hcc hr hv hdecode hreply hcarry hj
  set u := repliedState c s.ports.reqAddr s.ports.reqArgValid s.ports.reqArg reply s
  have hframe : u.fb.frame = reply := repliedState_frame _ _ _ _ hwf hreply
  obtain ⟨htx, hrx⟩ := judgedState_streams kind code u
  obtain ⟨htx', hrx'⟩ := repliedState_streams c s.ports.reqAddr s.ports.reqArgValid s.ports.reqArg reply s
  obtain ⟨hterminal, hsuccess⟩ := judgedState_terminal kind code u
  exact ⟨_, hrun, htx.trans htx', hrx.trans hrx', hframe, congrArg verify hframe, congrArg preambleValid hframe, hj,
    hterminal, hsuccess, rfl, rfl, rfl, rfl⟩

/-- Settles O41: an operation is a request of its command, whose frame the first two edges build and 26 more send. -/
theorem operationsSendTheirFrames : Obligations.OperationsSendTheirFrames := by
  unfold Obligations.OperationsSendTheirFrames
  intro s x op hp hwf frame
  have hframe : frame = Machine.commandFrame s.cmdCode op.command 0 op.hasArg (op.argOr x) := by
    cases op <;> rfl
  rw [hframe, Operation.expand_eq]
  refine ⟨⟨_, _, exec_idle hp, exec_latched .., rfl, builtState_frame _ _ _ _ hwf⟩, ?_⟩
  intro enc txs rest hr hv hdecode hpend henc hlen htx
  obtain ⟨q, qs, hrun, -⟩ := run_sends_request hp hwf hr hv hdecode hpend henc hlen htx
  exact ⟨_, hrun, rfl, requestedState_txStream ..⟩

/-- Settles O33: `Read` is of class T, which reads every payload as telemetry. -/
theorem readDeliversTelemetry : Obligations.ReadDeliversTelemetry := by
  unfold Obligations.ReadDeliversTelemetry
  intro a v x s hcc hp hold hv hpre
  have hpre := preambleValid_frame.mpr hpre
  exact ⟨_, exec_takes_good_reply (c := .read) hcc hp hold hv hpre rfl, judgedState_of_success 0 rfl hv hpre, rfl⟩

/-- Settles O34: `ReadProductInfo` is of class I, which reads every payload as an identity record. -/
theorem readProductInfoDeliversIdentity : Obligations.ReadProductInfoDeliversIdentity := by
  unfold Obligations.ReadProductInfoDeliversIdentity
  intro a v x s hcc hp hold hv hpre
  have hpre := preambleValid_frame.mpr hpre
  exact ⟨_, exec_takes_good_reply (c := .readProductInfo) hcc hp hold hv hpre rfl,
    judgedState_of_success 0 rfl hv hpre, rfl⟩

/-- Settles O8: the code of SetOutputVoltage is 0x23 under R10, and the rest of the frame is fixed. -/
theorem setVoltageExampleFrame : Obligations.SetVoltageExampleFrame := by
  unfold Obligations.SetVoltageExampleFrame
  intro cc hcc
  rw [Machine.commandFrame, CmdCode.code_setOutputVoltage hcc]
  decide

end Sys2Proof.Settled
end

section
/-! The fields of a payload as its bytes (R159 to R161, R163). -/

namespace Sys2Proof.Machine

open Sys2Proof

/-- A slice that lies inside a sequence, byte by byte. -/
theorem bytesAt_eq_map {s : List Byte} {o n : Nat} (h : o + n ≤ s.length) :
    bytesAt s o n = (List.range n).map fun k => byteAt s (o + k) := by
  refine ext_byteAt (by simp [bytesAt_length h]) fun k hk => ?_
  rw [bytesAt_length h] at hk
  rw [byteAt, bytesAt_getD s o hk]
  simp [byteAt, hk]

/-- A byte-sequence field is its own bytes, in payload order and at full width. -/
theorem fieldBytes_eq_map {p : List Byte} (f : FieldAt) (h : f.off + f.width ≤ p.length) :
    fieldBytes p f = (List.range f.width).map fun k => byteAt p (f.off + k) :=
  bytesAt_eq_map h

/-- An integer field as wide as its bytes loses none of them. -/
theorem fieldNum_toNat {p : List Byte} {n : Nat} {f : FieldAt} (h : f.off + f.width ≤ p.length)
    (hn : n = 8 * f.width) :
    (fieldNum n p f).toNat = leNat ((List.range f.width).map fun k => byteAt p (f.off + k)) := by
  rw [← fieldBytes_eq_map f h]
  exact toNat_ofNat_leNat (bytesAt_length h) hn

theorem fieldNum_one {p : List Byte} {o : Nat} (h : o + 1 ≤ p.length) : fieldNum 8 p ⟨o, 1⟩ = byteAt p o :=
  BitVec.eq_of_toNat_eq <| (fieldNum_toNat h rfl).trans (by simp [leNat])

theorem fieldNum_two_toNat {p : List Byte} {o : Nat} (h : o + 2 ≤ p.length) :
    (fieldNum 16 p ⟨o, 2⟩).toNat = (byteAt p o).toNat + 256 * (byteAt p (o + 1)).toNat :=
  (fieldNum_toNat h rfl).trans (by simp [leNat, List.range_succ])

theorem fieldNum_four_toNat {p : List Byte} {o : Nat} (h : o + 4 ≤ p.length) :
    (fieldNum 32 p ⟨o, 4⟩).toNat = (byteAt p o).toNat + 256 * (byteAt p (o + 1)).toNat +
      65536 * (byteAt p (o + 2)).toNat + 16777216 * (byteAt p (o + 3)).toNat := by
  have hsum : leNat [byteAt p o, byteAt p (o + 1), byteAt p (o + 2), byteAt p (o + 3)] =
      (byteAt p o).toNat + 256 * (byteAt p (o + 1)).toNat +
        65536 * (byteAt p (o + 2)).toNat + 16777216 * (byteAt p (o + 3)).toNat := by
    simp only [leNat]
    omega
  exact (fieldNum_toNat h rfl).trans hsum

/-- One bit of a byte as a number. -/
theorem getLsbD_iff_div_mod {b : Byte} {i : Nat} : b.getLsbD i = true ↔ b.toNat / 2 ^ i % 2 = 1 := by
  rw [← BitVec.testBit_toNat, Nat.testBit_eq_decide_div_mod_eq, decide_eq_true_iff]

/-- A run of bits of a byte as a number. -/
theorem extractLsb'_toNat_div_mod (b : Byte) (i n : Nat) : (b.extractLsb' i n).toNat = b.toNat / 2 ^ i % 2 ^ n := by
  rw [BitVec.extractLsb'_toNat, Nat.shiftRight_eq_div_pow]

end Sys2Proof.Machine
end

section
/-! The classes of a status byte (R78, R151, R158). -/

namespace Sys2Proof

open Machine

/-- The byte value a named status class has (R78). -/
def Status.byte? : Status → Option Byte
  | .commandSuccessful => some 0x80
  | .checksumIncorrect => some 0x90
  | .parameterIncorrect => some 0xA0
  | .unrecognizedCommand => some 0xB0
  | .invalidCommand => some 0xC0
  | .unknown => none

/-- A named class is the class of its own byte and of no other. -/
theorem Status.ofByte_eq_iff {st : Status} {b c : Byte} (hc : st.byte? = some c) :
    Status.ofByte b = st ↔ b = c := by
  constructor
  · rintro rfl
    rcases Status_ofByte_cases b with
      ⟨rfl, h⟩ | ⟨rfl, h⟩ | ⟨rfl, h⟩ | ⟨rfl, h⟩ | ⟨rfl, h⟩ | ⟨-, -, -, -, -, h⟩ <;> rw [h] at hc <;> cases hc
    all_goals rfl
  · rintro rfl
    cases st <;> cases hc <;> rfl

/-- Unknown is the class of every byte that is no named class's. -/
theorem Status.ofByte_unknown_iff {b : Byte} : Status.ofByte b = .unknown ↔ b ∉ Status.named := by
  simp only [Status.named, List.mem_cons, List.not_mem_nil, or_false, not_or]
  rcases Status_ofByte_cases b with
    ⟨rfl, h⟩ | ⟨rfl, h⟩ | ⟨rfl, h⟩ | ⟨rfl, h⟩ | ⟨rfl, h⟩ | ⟨h1, h2, h3, h4, h5, h⟩ <;> rw [h]
  case inr.inr.inr.inr.inr => exact ⟨fun _ => ⟨h1, h2, h3, h4, h5⟩, fun _ => rfl⟩
  all_goals decide

end Sys2Proof
end

section
/-! A good reply in `Decoding`: its judgement, and the status row a class `S` reply selects (R150 to R157, R188). -/

namespace Sys2Proof.Machine

open Sys2Proof

/-! ### A step in `Decoding` -/

/-- Outside reset a step in `Decoding` that does not stop records the judgement of the frame in FB. -/
theorem step_decoding {s t : State} (hr : s.ports.rst = false) (hp : s.phase = .decoding)
    (h : step s = .next t) :
    ∃ kind code, judgement (replyClassOf s) s.fb.frame = some (kind, code) ∧
      t = nextInputs (judgedState kind code s) := by
  obtain ⟨u, hu, rfl⟩ := step_next_iff.mp h
  have hedge : edge s = decodeStep s := by simp [edge_eq, hr, hp, exchange]
  rw [hedge, decodeStep_eq hp] at hu
  split at hu
  next kind code hj =>
    cases hu
    exact ⟨kind, code, hj, rfl⟩
  next => cases hu

theorem step_of_judgement {s : State} {kind : ResKind} {code : Byte} (hr : s.ports.rst = false)
    (hp : s.phase = .decoding) (hj : judgement (replyClassOf s) s.fb.frame = some (kind, code)) :
    step s = .next (nextInputs (judgedState kind code s)) :=
  step_next_iff.mpr ⟨_, edge_decoding hr hp hj, rfl⟩

/-- Byte `k` of the payload in FB. -/
theorem byteAt_payloadOf (m : Memory) {k : Nat} (hk : k < 22) : byteAt (payloadOf m.frame) k = m.read (3 + k) := by
  rw [byteAt, payloadOf, bytesAt_getD _ _ hk, Memory.frame_getD m (k := 3 + k) (by omega)]

/-- The payload is bytes 3 to 24 of FB and nothing else (R51). -/
theorem payloadOf_congr {m m' : Memory} (h : ∀ k, 3 ≤ k → k ≤ 24 → m'.read k = m.read k) :
    payloadOf m'.frame = payloadOf m.frame := by
  refine ext_byteAt (by simp) fun k hk => ?_
  rw [payloadOf_frame_length] at hk
  rw [byteAt_payloadOf m' hk, byteAt_payloadOf m hk, h (3 + k) (by omega) (by omega)]

/-! ### The kind of a status class -/

theorem statusKind_okRaw_iff {st : Status} : statusKind st = .okRaw ↔ st = .commandSuccessful := by
  cases st <;> simp [statusKind]

theorem statusKind_errUnknownStatus_iff {st : Status} : statusKind st = .errUnknownStatus ↔ st = .unknown := by
  cases st <;> simp [statusKind]

theorem statusKind_errRejected_iff {st : Status} :
    statusKind st = .errRejected ↔ st = .checksumIncorrect ∨ st = .parameterIncorrect ∨
      st = .unrecognizedCommand ∨ st = .invalidCommand := by
  cases st <;> simp [statusKind]

/-! ### The status row of a payload -/

/-- A payload of 22 bytes decodes to the row of its status byte. -/
theorem decodeReply_of_length {p : List Byte} (hp : p.length = 22) :
    decodeReply p = .ok (Status.instr (byteAt p 0) (rawBytes p)) := by
  have hraw : Instr.rawOk (rawBytes p) = true := by simp [Instr.rawOk, rawBytes_length hp]
  rw [← decodeReply_cons hraw, ← status_cons_raw hp]

theorem holdsReply_of_good {s : State} (hp : s.phase = .decoding) (hS : replyClassOf s = .S)
    (hv : verify s.fb.frame = true) (hpre : preambleValid s.fb.frame = true) :
    holdsReply (byteAt (payloadOf s.fb.frame) 0) (rawBytes (payloadOf s.fb.frame)) s = true :=
  holdsReply_iff.mpr ⟨hp, hS, hv, hpre, status_cons_raw (payloadOf_frame_length s.fb)⟩

/-- The raw bytes of the row that DECODE meets are the 21 behind the status byte. -/
theorem rawBytes_of_holdsReply {st : Byte} {raw : List Byte} {s : State} (h : holdsReply st raw s = true) :
    rawBytes (payloadOf s.fb.frame) = raw := by
  obtain ⟨-, -, -, -, hpay⟩ := holdsReply_iff.mp h
  have hcons := status_cons_raw (payloadOf_frame_length s.fb)
  exact (List.tail_eq_of_cons_eq (hpay.symm.trans hcons)).symm

/-- The row a payload selects is the one DECODE carries out. -/
theorem exec_statusInstr_eq_statusStep (p : List Byte) (s : State) :
    exec (Status.instr (byteAt p 0) (rawBytes p)) s = statusStep p s := by
  unfold Status.instr statusStep
  cases Status.ofByte (byteAt p 0) <;> rfl

/-- Each of the six rows, where it is what DECODE meets, records its byte with the kind of its class. -/
theorem exec_statusInstr {st : Byte} {raw : List Byte} {s : State} (h : holdsReply st raw s = true) :
    exec (Status.instr st raw) s = .next (judgedState (statusKind (Status.ofByte st)) st s) := by
  obtain ⟨hp, hS, hv, hpre, hpay⟩ := holdsReply_iff.mp h
  have hstep := statusStep_good hp hS hv hpre
  rw [← exec_statusInstr_eq_statusStep, rawBytes_of_holdsReply h, hpay] at hstep
  exact hstep

/-- What an error on a good reply writes: flags, result, IDX (R210), phase and the event. -/
theorem judgedState_of_error {s : State} {kind : ResKind} (code : Byte) (hk : kind.success = false)
    (hv : verify s.fb.frame = true) (hpre : preambleValid s.fb.frame = true) :
    judgedState kind code s =
      { s with ckOk := true, preOk := true, resKind := kind, resCode := code, idx := 0, phase := .protocolError,
               trace := .judged kind code :: s.trace } := by
  simp [judgedState, hk, hv, hpre]

/-- Each row but CommandSuccessful ends in `ProtocolError` with its byte as code. -/
theorem exec_statusInstr_error {st : Byte} {raw : List Byte} {s : State} {kind : ResKind}
    (h : holdsReply st raw s = true) (hkind : statusKind (Status.ofByte st) = kind) (herr : kind.success = false) :
    exec (Status.instr st raw) s = .next
      { s with ckOk := true, preOk := true, resKind := kind, resCode := st, idx := 0, phase := .protocolError,
               trace := .judged kind st :: s.trace } := by
  obtain ⟨-, -, hv, hpre, -⟩ := holdsReply_iff.mp h
  rw [exec_statusInstr h, hkind, judgedState_of_error st herr hv hpre]

end Sys2Proof.Machine
end

section
/-! The obligations of 42_reply_decode.md. -/

namespace Sys2Proof.Settled

open Sys2Proof Sys2Proof.Machine

/-- Settles O23: the row the payload decodes to records what the judgement of the frame does. -/
theorem stepRunsDecodedStatusRow : Obligations.StepRunsDecodedStatusRow := by
  unfold Obligations.StepRunsDecodedStatusRow
  intro s hr hp hS hv hpre
  have hj : judgement (replyClassOf s) s.fb.frame = some (statusResult (payloadOf s.fb.frame)) := by
    rw [judgement_of_good hv hpre, hS, interpret]
  exact ⟨_, _, decodeReply_of_length (payloadOf_frame_length s.fb),
    exec_statusInstr (holdsReply_of_good hp hS hv hpre), step_of_judgement hr hp hj⟩

/-- Settles O37: the raw bytes are read where the reply stands, in FB, which the row does not write. -/
theorem statusSuccessfulRow : Obligations.StatusSuccessfulRow := by
  unfold Obligations.StatusSuccessfulRow
  intro raw s h
  obtain ⟨-, -, hv, hpre, -⟩ := holdsReply_iff.mp h
  have hraw := rawBytes_of_holdsReply h
  have hlen : raw.length = 21 := hraw ▸ rawBytes_length (payloadOf_frame_length s.fb)
  refine ⟨judgedState .okRaw 0x80 s, exec_statusInstr h, judgedState_of_success 0x80 rfl hv hpre, ?_, fun k _ => ?_⟩
  · rw [← hraw]
    rfl
  · have hport : (outputs (judgedState .okRaw 0x80 s)).rawBytes = portBits 168 raw := congrArg (portBits 168) hraw
    rw [hport, portBits_byte (by omega)]

/-- Settles O60: a good reply is judged by its payload alone, bytes 3 to 24. -/
theorem replyAddressAndCommandByteIgnored : Obligations.ReplyAddressAndCommandByteIgnored := by
  unfold Obligations.ReplyAddressAndCommandByteIgnored
  intro s s' t t' hr hr' hp hp' hcmd hcc hpay hv hv' hpre hpre' h h'
  obtain ⟨kind, code, hj, rfl⟩ := step_decoding hr hp h
  obtain ⟨kind', code', hj', rfl⟩ := step_decoding hr' hp' h'
  have hsame : judgement (replyClassOf s') s'.fb.frame = judgement (replyClassOf s) s.fb.frame := by
    rw [judgement_of_good hv (preambleValid_frame.mpr hpre), judgement_of_good hv' (preambleValid_frame.mpr hpre'),
      payloadOf_congr hpay, replyClassOf, replyClassOf, hcmd, hcc]
  obtain ⟨rfl, rfl⟩ : kind' = kind ∧ code' = code := by simpa [hj, hj'] using hsame
  simp

/-- Settles O15: the kind follows the class, and the class is decided by the whole byte. -/
theorem statusClassification : Obligations.StatusClassification := by
  unfold Obligations.StatusClassification
  refine ⟨fun p => ⟨rfl, ?_, ?_, ?_⟩, fun b => ⟨Status.ofByte_eq_iff rfl, Status.ofByte_eq_iff rfl,
    Status.ofByte_eq_iff rfl, Status.ofByte_eq_iff rfl, Status.ofByte_eq_iff rfl, Status.ofByte_unknown_iff⟩⟩
  · exact statusKind_okRaw_iff.trans (Status.ofByte_eq_iff rfl)
  · rw [statusResult, statusKind_errRejected_iff, Status.ofByte_eq_iff (c := 0x90) rfl,
      Status.ofByte_eq_iff (c := 0xA0) rfl, Status.ofByte_eq_iff (c := 0xB0) rfl,
      Status.ofByte_eq_iff (c := 0xC0) rfl]
    simp only [List.mem_cons, List.not_mem_nil, or_false]
  · exact statusKind_errUnknownStatus_iff.trans Status.ofByte_unknown_iff

/-- Settles O16: each field by its offset and width, and the bits of the state byte as quotients. -/
theorem telemetryFields : Obligations.TelemetryFields := by
  unfold Obligations.TelemetryFields
  intro p hp
  have hstate : (telemetry p).state = byteAt p 6 := fieldNum_one (by omega)
  refine ⟨fieldNum_two_toNat (by omega), fieldNum_four_toNat (by omega), hstate, fieldNum_one (by omega),
    fieldNum_one (by omega), fieldNum_four_toNat (by omega), fieldNum_four_toNat (by omega),
    fieldBytes_eq_map tmReserved (by rw [hp]; decide), ?_, ?_, ?_, ?_, ?_⟩
  · rw [Telemetry.output, hstate, getLsbD_iff_div_mod, pow_zero, Nat.div_one]
  · rw [Telemetry.heat, hstate, getLsbD_iff_div_mod, pow_one]
  · rw [Telemetry.mode, hstate, extractLsb'_toNat_div_mod]
    rfl
  · rw [Telemetry.stateRsvd, hstate, extractLsb'_toNat_div_mod]
    rfl
  · have htop : (byteAt p 6).toNat / 128 < 2 := Nat.div_lt_of_lt_mul (byteAt p 6).isLt
    rw [Telemetry.operation, hstate, getLsbD_iff_div_mod]
    exact (Nat.mod_eq_of_lt htop).congr_left

/-- Settles O17: each field by its offset and width. -/
theorem identityFields : Obligations.IdentityFields := by
  unfold Obligations.IdentityFields
  intro p hp
  have hbytes : ∀ f : FieldAt, f.off + f.width ≤ 22 →
      fieldBytes p f = (List.range f.width).map fun k => byteAt p (f.off + k) :=
    fun f hf => fieldBytes_eq_map f (hp ▸ hf)
  exact ⟨hbytes idModel (by decide), fieldNum_one (by omega), fieldNum_one (by omega),
    hbytes idSerial (by decide), hbytes idReserved (by decide)⟩

/-- Settles O38: the four rows are one, each with its byte. -/
theorem statusRejectionRows : Obligations.StatusRejectionRows := by
  unfold Obligations.StatusRejectionRows
  intro raw s rejected
  have hrow : ∀ st, statusKind (Status.ofByte st) = .errRejected → holdsReply st raw s = true →
      exec (Status.instr st raw) s = .next (rejected st) :=
    fun st hkind h => exec_statusInstr_error h hkind rfl
  exact ⟨hrow 0x90 rfl, hrow 0xA0 rfl, hrow 0xB0 rfl, hrow 0xC0 rfl⟩

/-- Settles O39: a byte that is none of the named values selects the Unknown row. -/
theorem statusUnknownRow : Obligations.StatusUnknownRow := by
  unfold Obligations.StatusUnknownRow
  intro st raw s h hst
  have hunknown : Status.ofByte st = .unknown := Status.ofByte_unknown_iff.mpr hst
  rw [← Status.instr_of_not_named hst raw]
  exact exec_statusInstr_error h (by rw [hunknown]; rfl) rfl

end Sys2Proof.Settled
end

section
/-! The edges of an exchange as equations: the exchange by its phase, each step of `Writing` and of the reading phases
by its guard, and a command's edge while its exchange is in progress (R180, R183 to R187, R189, R190). -/

namespace Sys2Proof.Machine

open Sys2Proof

/-! ### The exchange by its phase -/

theorem exchange_writing {s : State} (hp : s.phase = .writing) : exchange s = writingStep s := by
  rw [exchange, hp]

theorem exchange_reading {s : State} (hp : s.phase = .awaitingReply ∨ s.phase = .reading) :
    exchange s = readingStep s := by
  rcases hp with hp | hp <;> rw [exchange, hp]

/-! ### The steps by their guards -/

theorem writingStep_fails {s : State} (herr : s.ports.txErr = true) :
    writingStep s = .next (raise .transportError s.ports.txErrCode s) := by
  rw [writingStep, if_pos herr]

theorem writingStep_sends {s : State} (herr : s.ports.txErr = false) (hready : s.ports.txReady = true)
    (hi : s.idx.toNat < 26) : writingStep s = .next (txByte (s.fb.read s.idx.toNat) s) := by
  simp [writingStep, herr, hready, Memory.read?_of_lt hi]

theorem writingStep_waits {s : State} (herr : s.ports.txErr = false) (hready : s.ports.txReady = false) :
    writingStep s = .next s := by
  simp [writingStep, herr, hready]

theorem readingStep_fails {s : State} (herr : s.ports.rxErr = true) :
    readingStep s = .next (raise .transportError s.ports.rxErrCode s) := by
  rw [readingStep, if_pos herr]

theorem readingStep_stores {s : State} (herr : s.ports.rxErr = false) (hvalid : s.ports.rxValid = true)
    (hi : s.idx.toNat < 26) :
    readingStep s = .next (rxByte s.ports.rxData (s.fb.write s.idx.toNat s.ports.rxData) s) := by
  simp [readingStep, herr, hvalid, Memory.write?_of_lt _ hi]

theorem readingStep_waits {s : State} (herr : s.ports.rxErr = false) (hvalid : s.ports.rxValid = false) :
    readingStep s = .next s := by
  simp [readingStep, herr, hvalid]

theorem ackStep_takes {s : State} (hready : s.ports.resReady = true) : ackStep s = .next (ack s) := by
  rw [ackStep, if_pos hready]

theorem ackStep_waits {s : State} (hready : s.ports.resReady = false) : ackStep s = .next s := by
  simp [ackStep, hready]

/-! ### IDX and PHASE after a byte -/

theorem idx_eq_last_iff {i : BitVec 5} : i = 25 ↔ i.toNat = 25 := by
  bv_omega

/-- A byte handed over in `Writing`, as the update of the state it is (R183). -/
theorem txByte_eq {s : State} (hp : s.phase = .writing) (b : Byte) :
    txByte b s = { s with
      idx := if s.idx.toNat = 25 then 0 else s.idx + 1,
      phase := if s.idx.toNat = 25 then .awaitingReply else .writing,
      trace := .txByte b :: s.trace } := by
  by_cases hlast : s.idx.toNat = 25
  · simp only [txByte, idx_eq_last_iff, hlast, if_true]
  · simp only [txByte, idx_eq_last_iff, hlast, if_false, ← hp]

/-- A byte stored, as the update of the state it is (R185). -/
theorem rxByte_eq (b : Byte) (m : Memory) (s : State) :
    rxByte b m s = { s with
      fb := m,
      idx := if s.idx.toNat = 25 then 0 else s.idx + 1,
      phase := if s.idx.toNat = 25 then .decoding else .reading,
      trace := .rxByte b :: s.trace } := by
  by_cases hlast : s.idx.toNat = 25 <;> simp only [rxByte, idx_eq_last_iff, hlast, if_true, if_false]

/-- PHASE and IDX after TX (R193). -/
theorem txByte_control {s : State} (hp : s.phase = .writing) (b : Byte) :
    (s.idx.toNat < 25 → (txByte b s).phase = .writing ∧ (txByte b s).idx.toNat = s.idx.toNat + 1) ∧
    (s.idx.toNat = 25 → (txByte b s).phase = .awaitingReply ∧ (txByte b s).idx = 0) := by
  refine ⟨fun h => ?_, fun h => ?_⟩
  · rw [txByte_eq hp, if_neg h.ne, if_neg h.ne]
    exact ⟨rfl, idx_succ_toNat h⟩
  · rw [txByte_eq hp, if_pos h, if_pos h]
    exact ⟨rfl, rfl⟩

/-- PHASE and IDX after RX (R193). -/
theorem rxByte_control (b : Byte) (m : Memory) (s : State) :
    (s.idx.toNat < 25 → (rxByte b m s).phase = .reading ∧ (rxByte b m s).idx.toNat = s.idx.toNat + 1) ∧
    (s.idx.toNat = 25 → (rxByte b m s).phase = .decoding ∧ (rxByte b m s).idx = 0) := by
  refine ⟨fun h => ?_, fun h => ?_⟩
  · rw [rxByte_eq, if_neg h.ne, if_neg h.ne]
    exact ⟨rfl, idx_succ_toNat h⟩
  · rw [rxByte_eq, if_pos h, if_pos h]
    exact ⟨rfl, rfl⟩

/-! ### A command's edge -/

/-- While its exchange is in progress, a command's edge is the exchange's. -/
theorem exec_held {c : Command} {a : Byte} {v : Bool} {x : Word} {s : State}
    (hold : holdsRequest (s.cmdCode.code c) a v x s = true) (hi : s.phase ≠ .idle) (hr : s.phase ≠ .refused) :
    exec (c.instr a v x) s = exchange s := by
  rw [exec_instr, request_held hold hi hr]

/-- Outside `Idle` a command changes nothing unless its exchange is in progress and moves. -/
theorem exec_waits {c : Command} {a : Byte} {v : Bool} {x : Word} {s : State} (hi : s.phase ≠ .idle)
    (hwait : holdsRequest (s.cmdCode.code c) a v x s = true → exchange s = .next s) :
    exec (c.instr a v x) s = .next s := by
  rw [exec_instr]
  rcases request_cases (c := c) (a := a) (v := v) (x := x) (s := s) with he | ⟨hp, -⟩ | ⟨-, -, hold, he⟩
  · exact he
  · exact absurd hp hi
  · exact he.trans (hwait hold)

/-- The frame the latches ask for is that of the request they hold (R182). -/
theorem requestFrame_held {cmd a : Byte} {v : Bool} {x : Word} {s : State} (hold : holdsRequest cmd a v x s = true) :
    requestFrame s = frameOf a cmd (packArg v x) := by
  obtain ⟨rfl, rfl, rfl, rfl⟩ := holdsRequest_iff.mp hold
  rfl

end Sys2Proof.Machine
end

section
/-! A class `S` reply by its status byte, and what the six status rows write (R151 to R157, R188). -/

namespace Sys2Proof.Machine

open Sys2Proof

/-- The kind of a status byte (R151). -/
theorem statusKind_ofByte (b : Byte) :
    statusKind (Status.ofByte b) =
      if b = 0x80 then .okRaw else if b ∈ [(0x90 : Byte), 0xA0, 0xB0, 0xC0] then .errRejected
      else .errUnknownStatus := by
  rcases Status_ofByte_cases b with
    ⟨rfl, h⟩ | ⟨rfl, h⟩ | ⟨rfl, h⟩ | ⟨rfl, h⟩ | ⟨rfl, h⟩ | ⟨h1, h2, h3, h4, h5, h⟩ <;> rw [h]
  case inr.inr.inr.inr.inr =>
    have hmem : b ∉ [(0x90 : Byte), 0xA0, 0xB0, 0xC0] := by
      simp only [List.mem_cons, List.not_mem_nil, or_false, not_or]
      exact ⟨h2, h3, h4, h5⟩
    rw [if_neg h1, if_neg hmem, statusKind]
  all_goals rfl

/-- Of all status bytes only 0x80 is a success. -/
theorem statusKind_ofByte_success (b : Byte) : (statusKind (Status.ofByte b)).success = decide (b = 0x80) := by
  rw [statusKind_ofByte]
  by_cases h : b = 0x80
  · simp [h, ResKind.success]
  · rw [if_neg h, decide_eq_false h]
    split <;> rfl

/-- A status row that is not what DECODE meets changes nothing (R180; log entry 11). -/
theorem exec_statusInstr_waits {st : Byte} {raw : List Byte} {s : State} (h : holdsReply st raw s = false) :
    exec (Status.instr st raw) s = .next s := by
  have hnot : ¬ holdsReply st raw s = true := by simp [h]
  rcases Status.instr_cases st raw with
    ⟨rfl, hi⟩ | ⟨rfl, hi⟩ | ⟨rfl, hi⟩ | ⟨rfl, hi⟩ | ⟨rfl, hi⟩ | ⟨-, hi⟩ <;> rw [hi]
  case inr.inr.inr.inr.inr => exact if_neg fun hboth => hnot (Bool.and_eq_true_iff.mp hboth).1
  all_goals exact if_neg hnot

/-- The Unknown row with the byte of another row changes nothing: it applies only when no other row matches (R86). -/
theorem exec_statusUnknown_named {st : Byte} (h : st ∈ Status.named) (raw : List Byte) (s : State) :
    exec (.statusUnknown st raw) s = .next s := by
  have hst : Status.ofByte st ≠ .unknown := fun e => Status.ofByte_unknown_iff.mp e h
  simp [exec, execStatusUnknown, hst]

/-- An instruction of the reply channel is the row of its byte, or the Unknown row with the byte of another. -/
theorem instr_of_reply {i : Instr} (h : i.channel = .reply) :
    (∃ st raw, i = Status.instr st raw) ∨ (∃ st raw, st ∈ Status.named ∧ i = .statusUnknown st raw) := by
  cases i with
  | statusCommandSuccessful raw => exact .inl ⟨0x80, raw, rfl⟩
  | statusChecksumIncorrect raw => exact .inl ⟨0x90, raw, rfl⟩
  | statusParameterIncorrect raw => exact .inl ⟨0xA0, raw, rfl⟩
  | statusUnrecognizedCommand raw => exact .inl ⟨0xB0, raw, rfl⟩
  | statusInvalidCommand raw => exact .inl ⟨0xC0, raw, rfl⟩
  | statusUnknown st raw =>
    by_cases hst : st ∈ Status.named
    · exact .inr ⟨st, raw, hst, rfl⟩
    · exact .inl ⟨st, raw, (Status.instr_of_not_named hst raw).symm⟩
  | _ => cases h

/-- Everything a status row can do: nothing, or DECODE's record of the byte. -/
theorem exec_reply_cases {i : Instr} (h : i.channel = .reply) (s : State) :
    exec i s = .next s ∨
      ∃ st raw, holdsReply st raw s = true ∧ exec i s = .next (judgedState (statusKind (Status.ofByte st)) st s) := by
  rcases instr_of_reply h with ⟨st, raw, rfl⟩ | ⟨st, raw, hst, rfl⟩
  · cases hold : holdsReply st raw s
    · exact .inl (exec_statusInstr_waits hold)
    · exact .inr ⟨st, raw, hold, exec_statusInstr hold⟩
  · exact .inl (exec_statusUnknown_named hst raw s)

end Sys2Proof.Machine
end

section
/-! A step outside reset as `exec` of the request, and the steps that wait (R180, R190). -/

namespace Sys2Proof.Machine

open Sys2Proof

/-- While an exchange is in progress the edge is `exec` of the request that the latches decode to. -/
theorem edge_of_latched {s : State} {i : Instr} (hr : s.ports.rst = false) (hi : s.phase ≠ .idle)
    (href : s.phase ≠ .refused) (hdec : decode s.cmdCode .request (latchedRequest s) = .ok i) :
    edge s = exec i s := by
  have hfetch : fetch s = some i := by
    unfold fetch
    split
    · next hp => exact absurd hp hi
    · next hp => exact absurd hp href
    all_goals rw [hdec]; rfl
  simp [edge, hr, hfetch]

/-- An edge that waits, with no further sample pending, is a step that changes nothing (log entry 3). -/
theorem step_waits {s : State} (he : edge s = .next s) (hpend : s.pending = []) : step s = .next s := by
  have hnext : nextInputs s = s := by simp only [nextInputs, hpend]
  exact step_next_iff.mpr ⟨s, he, hnext.symm⟩

/-- A waiting edge of the reading phases (R190). -/
theorem edge_waits_rx {s : State} (hr : s.ports.rst = false) (hp : s.phase = .awaitingReply ∨ s.phase = .reading)
    (hvalid : s.ports.rxValid = false) (herr : s.ports.rxErr = false) : edge s = .next s := by
  rw [edge_reading hr hp, readingStep_waits herr hvalid]

/-- A step that changes nothing is repeated without end. -/
theorem run_of_step_waits {s : State} (h : step s = .next s) (n : Nat) : run n s = .next s := by
  induction n with
  | zero => rfl
  | succ n ih => rw [run_succ h, ih]

/-- Only the ports change, so the block does not. -/
theorem sameBlock_nextInputs (s : State) : SameBlock s (nextInputs s) := by
  constructor <;> simp

@[simp] theorem result?_nextInputs (s : State) : (nextInputs s).result? = s.result? := by
  simp [State.result?, rawReply]

end Sys2Proof.Machine
end

section
/-! The terminal phases (R24), and the bound on the steps an exchange still takes (R193, R244). -/

namespace Sys2Proof.Machine

open Sys2Proof

/-- The terminal phases are those numbered 6 to 9 (R24). -/
theorem Phase.terminal_iff_code {p : Phase} : p.terminal = true ↔ 6 ≤ p.code.toNat := by
  cases p <;> decide

theorem Phase.terminal_cases {p : Phase} (h : p.terminal = true) :
    p = .success ∨ p = .protocolError ∨ p = .transportError ∨ p = .refused := by
  cases p <;> simp_all [Phase.terminal]

/-- A bound on the steps left, whatever the state (R244). -/
theorem stepsLeft_le (s : State) : stepsLeft s ≤ 55 := by
  unfold stepsLeft
  split <;> omega

/-- A byte handed over or stored lowers the bound: by one within a phase, and by one into the next (R193). -/
theorem stepsLeft_lt_after_byte {s t : State} {p q : Phase}
    (hpq : (p = .writing ∧ q = .awaitingReply) ∨ (p = .reading ∧ q = .decoding)) (hp : s.phase = p)
    (hle : s.idx.toNat ≤ 25)
    (hrow : (s.idx.toNat < 25 → t.phase = p ∧ t.idx.toNat = s.idx.toNat + 1) ∧
      (s.idx.toNat = 25 → t.phase = q ∧ t.idx = 0)) : stepsLeft t < stepsLeft s := by
  rcases hle.lt_or_eq with hlt | hlast
  · obtain ⟨ht, hidx⟩ := hrow.1 hlt
    rcases hpq with ⟨rfl, -⟩ | ⟨rfl, -⟩ <;> simp only [stepsLeft, hp, ht] <;> omega
  · obtain ⟨ht, -⟩ := hrow.2 hlast
    rcases hpq with ⟨rfl, rfl⟩ | ⟨rfl, rfl⟩ <;> simp only [stepsLeft, hp, ht] <;> omega

end Sys2Proof.Machine
end

section
/-! The obligations of 43_exchange_fsm.md. -/

namespace Sys2Proof.Settled

open Sys2Proof Sys2Proof.Machine

/-- Settles O26: the edge is ENCODE, and the frame the latches ask for is the command's. -/
theorem commandBuildsFrame : Obligations.CommandBuildsFrame := by
  unfold Obligations.CommandBuildsFrame
  intro c a v x s hp hwf hold
  have hexec : exec (c.instr a v x) s = .next (encodeStep s) := by
    rw [exec_held hold (by simp [hp]) (by simp [hp]), exchange, hp]
  have hframe : (encodeStep s).fb.frame = frameOf a (s.cmdCode.code c) (packArg v x) :=
    (Memory.frame_store hwf (requestFrame_length s)).trans (requestFrame_held hold)
  exact ⟨encodeStep s, hexec, encodeFrame_eq_some_iff.mpr ⟨packArg_length v x, hframe⟩,
    fun k hk => Memory.read_store_outside (.inr (by simpa using hk)), rfl⟩

/-- Settles O27: the edge is TX of FB[IDX]. -/
theorem commandSendsByte : Obligations.CommandSendsByte := by
  unfold Obligations.CommandSendsByte
  intro c a v x s hp hi herr hready hold
  have hexec : exec (c.instr a v x) s = .next (txByte (s.fb.read s.idx.toNat) s) := by
    rw [exec_held hold (by simp [hp]) (by simp [hp]), exchange_writing hp,
      writingStep_sends herr hready (Nat.lt_succ_of_le hi)]
  exact ⟨_, hexec, txByte_eq hp _, txStream_cons (txByte_trace _ s)⟩

/-- Settles O28: the edge is RX, a write of one byte of a canonical buffer. -/
theorem commandStoresReplyByte : Obligations.CommandStoresReplyByte := by
  unfold Obligations.CommandStoresReplyByte
  intro c a v x s hp hi hwf herr hvalid hold
  have hne : s.phase ≠ .idle ∧ s.phase ≠ .refused := by rcases hp with hp | hp <;> simp [hp]
  have hexec : exec (c.instr a v x) s =
      .next (rxByte s.ports.rxData (s.fb.write s.idx.toNat s.ports.rxData) s) := by
    rw [exec_held hold hne.1 hne.2, exchange_reading hp, readingStep_stores herr hvalid (Nat.lt_succ_of_le hi)]
  refine ⟨_, hexec, ?_, fun k hk => ?_, ?_, rxTaken_cons (rxByte_trace _ _ s)⟩
  · rw [rxByte_fb, Memory.read_write_same _ hwf]
  · rw [rxByte_fb, Memory.read_write_other _ _ (Ne.symm hk)]
  · rw [rxByte_fb]
    exact rxByte_eq _ _ s

/-- Settles O30: the exchange waits in each of the three cases, and a request behind another exchange does too. -/
theorem commandWaits : Obligations.CommandWaits := by
  unfold Obligations.CommandWaits
  intro c a v x s
  refine ⟨fun hp herr hready => ?_, fun hp herr hvalid => ?_, fun ht hready => ?_, fun hi hold => ?_⟩
  · exact exec_waits (by simp [hp]) fun _ => (exchange_writing hp).trans (writingStep_waits herr hready)
  · exact exec_waits (by rcases hp with hp | hp <;> simp [hp])
      fun _ => (exchange_reading hp).trans (readingStep_waits herr hvalid)
  · exact exec_waits (by rintro e; simp [e, Phase.terminal] at ht)
      fun _ => (exchange_terminal ht).trans (ackStep_waits hready)
  · exact exec_waits hi fun h => by simp [hold] at h

/-- Settles O32: a class S reply is judged by its first payload byte, which is byte 3 of FB. -/
theorem statusCommandTakesReply : Obligations.StatusCommandTakesReply := by
  unfold Obligations.StatusCommandTakesReply
  intro c a v x s hcc hread hinfo hp hold hv hpre
  have hpre := preambleValid_frame.mpr hpre
  have hbyte : byteAt (payloadOf s.fb.frame) 0 = s.fb.read 3 := byteAt_payloadOf s.fb (by decide)
  have hint : interpret c.replyClass (payloadOf s.fb.frame) =
      some (statusKind (Status.ofByte (s.fb.read 3)), s.fb.read 3) := by
    rw [Command.replyClass_eq_S_iff.mpr ⟨hread, hinfo⟩, interpret, statusResult, hbyte]
  refine ⟨_, exec_takes_good_reply hcc hp hold hv hpre hint, ?_, ?_, statusKind_ofByte _⟩
  · simp only [judgedState, hv, hpre, statusKind_ofByte_success, decide_eq_true_eq]
  · simp only [judgedState, statusKind_ofByte_success, decide_eq_true_eq]

/-- Settles O46: under the invariant a step is taken, and each case of what a step can do is one row of the table. -/
theorem controlTransferTable : Obligations.ControlTransferTable := by
  unfold Obligations.ControlTransferTable
  intro s hs hr
  obtain ⟨t, ht⟩ := invNeverStops s hs
  refine ⟨t, ht, ?_⟩
  have hzero := hs.rules.otherIdx
  obtain ⟨u, rfl, ⟨hrst, -⟩ | ⟨-, hcase⟩⟩ := step_cases ht
  · simp [hr] at hrst
  rcases hcase with ⟨hp, hv, rfl⟩ | ⟨hp, hv, hU, rfl⟩ | ⟨hp, hv, hU, rfl⟩ | ⟨hp, rfl⟩ | ⟨hp, herr, rfl⟩ |
    ⟨hp, herr, hready, hi, rfl⟩ | ⟨hp, herr, hready, rfl⟩ | ⟨hp, herr, rfl⟩ | ⟨hp, herr, hvalid, hi, rfl⟩ |
    ⟨hp, herr, hvalid, rfl⟩ | ⟨hp, kind, code, hj, rfl⟩ | ⟨hterm, hready, rfl⟩ | ⟨hterm, hready, rfl⟩
  -- Idle: wait, refusal, acceptance
  · simp [hp, hv, hzero]
  · simp [hp, hv, hU, Error.terminal]
  · simp [hp, hv, hU, hzero]
  -- Encoding
  · simp [hp]
  -- Writing: failure, TX, wait
  · simp [hp, herr, Error.terminal]
  · simp only [hp, herr, hready, Bool.false_eq_true, if_false, if_true, nextInputs_phase, nextInputs_idx]
    exact txByte_control hp _
  · simp [hp, herr, hready]
  -- AwaitingReply and Reading: failure, RX, wait
  · rcases hp with hp | hp <;> simp [hp, herr, Error.terminal]
  · rcases hp with hp | hp
    · simp [hp, herr, hvalid, hzero]
    · simp only [hp, herr, hvalid, Bool.false_eq_true, if_false, if_true, nextInputs_phase, nextInputs_idx]
      exact rxByte_control _ _ s
  · rcases hp with hp | hp <;> simp [hp, herr, hvalid, hzero]
  -- Decoding
  · cases hkind : kind.success <;> simp [hp, hkind, hzero]
  -- the terminal phases: ACK, wait
  · rcases Phase.terminal_cases hterm with hp | hp | hp | hp <;> simp [hp, hready, hzero]
  · rcases Phase.terminal_cases hterm with hp | hp | hp | hp <;> simp [hp, hready, hzero]

/-- Settles O51: each row of the table that a cooperating environment enables lowers the bound. -/
theorem exchangeProgresses : Obligations.ExchangeProgresses := by
  unfold Obligations.ExchangeProgresses
  intro s t hs hr hi hcoop h
  obtain ⟨t', ht', hrow⟩ := controlTransferTable s hs hr
  obtain rfl : t' = t := Host.Outcome.next.inj (ht'.symm.trans h)
  suffices hlt : stepsLeft t' < stepsLeft s from
    ⟨hlt, Nat.le_of_lt_succ (hlt.trans_le (stepsLeft_le s))⟩
  cases hp : s.phase <;> simp only [hp, Cooperates] at hrow hcoop
  case idle => exact absurd hp hi
  case encoding => simp [stepsLeft, hp, hrow]
  case writing =>
    have hle := hs.rules.writingIdx hp
    split at hrow
    · simp only [stepsLeft, hp, hrow]
      omega
    next herr =>
    rw [if_pos (hcoop.resolve_right herr)] at hrow
    exact stepsLeft_lt_after_byte (.inl ⟨rfl, rfl⟩) hp hle hrow
  case awaitingReply =>
    split at hrow
    · simp [stepsLeft, hp, hrow]
    next herr =>
    rw [if_pos (hcoop.resolve_right herr)] at hrow
    simp [stepsLeft, hp, hrow]
  case reading =>
    obtain ⟨-, hle⟩ := hs.rules.readingIdx hp
    split at hrow
    · simp only [stepsLeft, hp, hrow]
      omega
    next herr =>
    rw [if_pos (hcoop.resolve_right herr)] at hrow
    exact stepsLeft_lt_after_byte (.inr ⟨rfl, rfl⟩) hp hle hrow
  case decoding => rcases hrow.1 with hq | hq <;> simp [stepsLeft, hp, hq]
  case success | protocolError | transportError | refused => simp [stepsLeft, hp, hcoop, hrow]

/-- Settles O52: the edge waits and no other sample comes. -/
theorem silentTransportBlocksForever : Obligations.SilentTransportBlocksForever := by
  unfold Obligations.SilentTransportBlocksForever
  intro n s hpend hr hsilent
  have hedge : edge s = .next s := by
    rcases hsilent with ⟨hp, hready, herr⟩ | ⟨hp, hvalid, herr⟩
    · exact edge_waits_tx hr hp hready herr
    · exact edge_waits_rx hr hp hvalid herr
  exact run_of_step_waits (step_waits hedge hpend) n

/-- Settles O18: each output by its equation, and the payload port byte by byte. -/
theorem outputsShowRegisters : Obligations.OutputsShowRegisters := by
  unfold Obligations.OutputsShowRegisters
  intro s hr
  refine ⟨by simp [outputs, hr], by simp [outputs, hr], fun htx hi => ?_, by simp [outputs, hr], ?_, rfl, rfl, rfl,
    rfl, rfl, rfl, fun k hk => ?_⟩
  · exact (if_pos (txValid_iff.mp htx).2).trans (Memory.read?_of_lt (Nat.lt_succ_of_le hi))
  · simp [resValid_iff, hr, Phase.terminal_iff_code]
  · exact (portBits_byte (by simp) k).trans (byteAt_payloadOf s.fb hk)

/-- Settles O22: the edge is `exec` of the decoded request, and the step samples the ports after it. -/
theorem stepRunsDecodedRequest : Obligations.StepRunsDecodedRequest := by
  unfold Obligations.StepRunsDecodedRequest
  intro s i hr hmet
  have hedge : edge s = exec i s := by
    rcases hmet with ⟨hp, hv, hdec⟩ | ⟨hi, href, hdec⟩
    · exact edge_of_offered hr hp hv hdec
    · exact edge_of_latched hr hi href hdec
  refine ⟨fun t h => ?_, fun r h => ?_, fun r h => ?_⟩ <;> simp only [step, hedge, h]

/-- Settles O24: the two branches of ACCEPT. -/
theorem acceptStep : Obligations.AcceptStep := by
  unfold Obligations.AcceptStep
  intro s hr hp hv
  have hedge : edge s =
      .next (Machine.acceptStep s.ports.reqCmd s.ports.reqAddr s.ports.reqArgValid s.ports.reqArg s) := by
    rw [edge_eq, if_neg (by simp [hr]), if_pos hp, if_pos hv]
  refine ⟨fun hU => ?_, fun hU => ?_⟩
  · rw [Machine.acceptStep, if_pos hU] at hedge
    exact step_next_iff.mpr ⟨_, hedge, rfl⟩
  · rw [Machine.acceptStep, if_neg hU] at hedge
    exact step_next_iff.mpr ⟨_, hedge, rfl⟩

/-- Settles O25: a defined command is latched. -/
theorem commandAccepted : Obligations.CommandAccepted := by
  unfold Obligations.CommandAccepted
  intro c a v x s hp
  exact exec_idle hp

/-- Settles O29: the failure is looked at before the readiness of the channel. -/
theorem commandTransportFailure : Obligations.CommandTransportFailure := by
  unfold Obligations.CommandTransportFailure
  intro c a v x s hold
  refine ⟨fun hp herr => ?_, fun hp herr => ?_⟩
  · rw [exec_held hold (by simp [hp]) (by simp [hp]), exchange_writing hp]
    exact writingStep_fails herr
  · rw [exec_held hold (by rcases hp with hp | hp <;> simp [hp]) (by rcases hp with hp | hp <;> simp [hp]),
      exchange_reading hp]
    exact readingStep_fails herr

/-- Settles O35: the edge is ACK. -/
theorem commandReturns : Obligations.CommandReturns := by
  unfold Obligations.CommandReturns
  intro c a v x s hp hready hold
  have hphase : s.phase.terminal = true ∧ s.phase ≠ .idle ∧ s.phase ≠ .refused := by
    rcases hp with hp | hp | hp <;> simp [hp, Phase.terminal]
  obtain ⟨ht, hi, href⟩ := hphase
  rw [exec_held hold hi href, exchange_terminal ht]
  exact ackStep_takes hready

/-- Settles O40: a row does nothing, or it is DECODE's record of a good frame. -/
theorem statusRowFrame : Obligations.StatusRowFrame := by
  unfold Obligations.StatusRowFrame
  intro i s t hi h
  rcases exec_reply_cases hi s with he | ⟨st, raw, hold, he⟩
  · obtain rfl : s = t := Host.Outcome.next.inj (he.symm.trans h)
    simp
  · obtain rfl := Host.Outcome.next.inj (he.symm.trans h)
    obtain ⟨hp, -, hv, hpre, -⟩ := holdsReply_iff.mp hold
    exact ⟨rfl, rfl, rfl, rfl, rfl, rfl, rfl, rfl, rfl,
      .inr ⟨hp, hv, hpre, (judgedState_terminal _ st s).1⟩⟩

/-- Settles O57: the edge waits, and the next sample of the ports is no register. -/
theorem resultHeldUntilTaken : Obligations.ResultHeldUntilTaken := by
  unfold Obligations.ResultHeldUntilTaken
  intro s ht hr hready
  exact ⟨_, step_next_iff.mpr ⟨s, edge_waits_result hr ht hready, rfl⟩, sameBlock_nextInputs s,
    result?_nextInputs s, nextInputs_trace s⟩

end Sys2Proof.Settled
end

section
/-! A bad reply, which no class reads (R202, R205, R209). -/

namespace Sys2Proof.Machine

open Sys2Proof

theorem judgement_of_bad_checksum (cls : ReplyClass) {f : List Byte} (hv : verify f = false) :
    judgement cls f = some (.errChecksum, 0) := by
  rw [judgement, if_pos hv]

theorem judgement_of_bad_preamble (cls : ReplyClass) {f : List Byte} (hv : verify f = true)
    (hpre : preambleValid f = false) : judgement cls f = some (.errMalformed, 0) := by
  rw [judgement, if_neg (by simp [hv]), if_pos hpre]

/-- A command in `Decoding` records the judgement of the frame in FB. -/
theorem exec_judges {c : Command} {a : Byte} {v : Bool} {x : Word} {s : State} {kind : ResKind} {code : Byte}
    (hp : s.phase = .decoding) (hold : holdsRequest (s.cmdCode.code c) a v x s = true)
    (hj : judgement (replyClassOf s) s.fb.frame = some (kind, code)) :
    exec (c.instr a v x) s = .next (judgedState kind code s) := by
  rw [exec_held hold (by simp [hp]) (by simp [hp]), exchange_decoding hp hj]

end Sys2Proof.Machine
end

section
/-! What an edge hears (R208): the registers and the inputs of the phase decide the registers after it. A state is
brought to two normal forms, its block alone and its block with the inputs it hears. -/

namespace Sys2Proof.Machine

open Sys2Proof

/-- The block alone: no input, no sample to come, no event logged. -/
def State.block (s : State) : State := { s with ports := .quiet, pending := [], trace := [] }

theorem block_eq_iff {s t : State} :
    t.block = s.block ↔ SameBlock s t ∧ t.cmdCode = s.cmdCode ∧ t.freeCount = s.freeCount := by
  constructor
  · intro h
    simp only [State.block, State.mk.injEq] at h
    obtain ⟨hfb, hcmd, haddr, harg, hargv, hidx, hphase, hck, hpre, hkind, hcode, hcc, -, -, -, hfree⟩ := h
    exact ⟨⟨hfb, hcmd, haddr, harg, hargv, hidx, hphase, hck, hpre, hkind, hcode⟩, hcc, hfree⟩
  · rintro ⟨⟨hfb, hcmd, haddr, harg, hargv, hidx, hphase, hck, hpre, hkind, hcode⟩, hcc, hfree⟩
    simp only [State.block, hfb, hcmd, haddr, harg, hargv, hidx, hphase, hck, hpre, hkind, hcode, hcc, hfree]

@[simp] theorem nextInputs_block (s : State) : (nextInputs s).block = s.block :=
  block_eq_iff.mpr ⟨sameBlock_nextInputs s, nextInputs_cmdCode s, nextInputs_freeCount s⟩

/-- The inputs with every port low that the phase does not listen to. -/
def Inputs.heard (ph : Phase) (p : Inputs) : Inputs :=
  match ph with
  | .idle => { Inputs.quiet with
      rst := p.rst, reqValid := p.reqValid, reqAddr := p.reqAddr, reqCmd := p.reqCmd,
      reqArgValid := p.reqArgValid, reqArg := p.reqArg }
  | .encoding | .decoding => { Inputs.quiet with rst := p.rst }
  | .writing => { Inputs.quiet with
      rst := p.rst, txReady := p.txReady, txErr := p.txErr, txErrCode := p.txErrCode }
  | .awaitingReply | .reading => { Inputs.quiet with
      rst := p.rst, rxValid := p.rxValid, rxData := p.rxData, rxErr := p.rxErr, rxErrCode := p.rxErrCode }
  | .success | .protocolError | .transportError | .refused => { Inputs.quiet with
      rst := p.rst, resReady := p.resReady }

theorem sameHeard_iff {ph : Phase} {p q : Inputs} : SameHeard ph p q ↔ p.heard ph = q.heard ph := by
  cases ph <;> simp [SameHeard, Inputs.heard]

@[simp] theorem heard_rst (ph : Phase) (p : Inputs) : (p.heard ph).rst = p.rst := by
  cases ph <;> rfl

/-- The block with the inputs it hears and nothing else of its environment. -/
def State.observed (s : State) : State := { s.block with ports := s.ports.heard s.phase }

theorem observed_congr {s t : State} (hb : t.block = s.block) (hheard : SameHeard s.phase s.ports t.ports) :
    t.observed = s.observed := by
  obtain ⟨hsame, -⟩ := block_eq_iff.mp hb
  rw [State.observed, State.observed, hb, hsame.phase, sameHeard_iff.mp hheard]

/-- An outcome as the block sees it. -/
def blockAfter : Host.Outcome State Fault Refusal → Host.Outcome State Fault Refusal
  | .next t => .next t.block
  | .fault r => .fault r
  | .refused r => .refused r

theorem blockAfter_eq_next_iff {o : Host.Outcome State Fault Refusal} {u : State} :
    blockAfter o = .next u ↔ ∃ t, o = .next t ∧ t.block = u := by
  cases o <;> simp [blockAfter]

/-! ### What the observed state keeps -/

@[simp] theorem observed_fb (s : State) : s.observed.fb = s.fb := rfl
@[simp] theorem observed_idx (s : State) : s.observed.idx = s.idx := rfl
@[simp] theorem observed_phase (s : State) : s.observed.phase = s.phase := rfl
@[simp] theorem observed_cmdCode (s : State) : s.observed.cmdCode = s.cmdCode := rfl
@[simp] theorem observed_replyClassOf (s : State) : replyClassOf s.observed = replyClassOf s := rfl
@[simp] theorem observed_rst (s : State) : s.observed.ports.rst = s.ports.rst := heard_rst ..

/-- In `Idle` the request ports are heard. -/
theorem observed_request {s : State} (hp : s.phase = .idle) :
    s.observed.ports.reqValid = s.ports.reqValid ∧ s.observed.ports.reqAddr = s.ports.reqAddr ∧
      s.observed.ports.reqCmd = s.ports.reqCmd ∧ s.observed.ports.reqArgValid = s.ports.reqArgValid ∧
      s.observed.ports.reqArg = s.ports.reqArg := by
  simp only [State.observed, hp, Inputs.heard, and_self]

/-- In `Writing` the transmit side is heard. -/
theorem observed_tx {s : State} (hp : s.phase = .writing) :
    s.observed.ports.txReady = s.ports.txReady ∧ s.observed.ports.txErr = s.ports.txErr ∧
      s.observed.ports.txErrCode = s.ports.txErrCode := by
  simp only [State.observed, hp, Inputs.heard, and_self]

/-- In the reading phases the receive side is heard. -/
theorem observed_rx {s : State} (hp : s.phase = .awaitingReply ∨ s.phase = .reading) :
    s.observed.ports.rxValid = s.ports.rxValid ∧ s.observed.ports.rxData = s.ports.rxData ∧
      s.observed.ports.rxErr = s.ports.rxErr ∧ s.observed.ports.rxErrCode = s.ports.rxErrCode := by
  rcases hp with hp | hp <;> simp only [State.observed, hp, Inputs.heard, and_self]

/-- In a terminal phase `res_ready` is heard. -/
theorem observed_resReady {s : State} (ht : s.phase.terminal = true) :
    s.observed.ports.resReady = s.ports.resReady := by
  rcases Phase.terminal_cases ht with hp | hp | hp | hp <;> simp only [State.observed, hp, Inputs.heard]

/-! ### Each step on the observed state -/

theorem acceptStep_observed (cmd a : Byte) (v : Bool) (x : Word) (s : State) :
    (acceptStep cmd a v x s.observed).block = (acceptStep cmd a v x s).block := by
  rw [acceptStep, acceptStep, observed_cmdCode]
  split <;> rfl

theorem txByte_observed {s : State} (hp : s.phase = .writing) (b : Byte) :
    (txByte b s.observed).block = (txByte b s).block := by
  rw [txByte_eq hp, txByte_eq (observed_phase s ▸ hp)]
  rfl

theorem rxByte_observed (b : Byte) (m : Memory) (s : State) :
    (rxByte b m s.observed).block = (rxByte b m s).block := by
  rw [rxByte_eq, rxByte_eq]
  rfl

theorem writingStep_observed {s : State} (hp : s.phase = .writing) :
    blockAfter (writingStep s.observed) = blockAfter (writingStep s) := by
  obtain ⟨hready, herr, hcode⟩ := observed_tx hp
  rw [writingStep, writingStep, hready, herr, hcode, observed_fb, observed_idx]
  split
  · rfl
  split
  · cases s.fb.read? s.idx.toNat with
    | none => rfl
    | some b => exact congrArg Host.Outcome.next (txByte_observed hp b)
  · rfl

theorem readingStep_observed {s : State} (hp : s.phase = .awaitingReply ∨ s.phase = .reading) :
    blockAfter (readingStep s.observed) = blockAfter (readingStep s) := by
  obtain ⟨hvalid, hdata, herr, hcode⟩ := observed_rx hp
  rw [readingStep, readingStep, hvalid, hdata, herr, hcode, observed_fb, observed_idx]
  split
  · rfl
  split
  · cases s.fb.write? s.idx.toNat s.ports.rxData with
    | none => rfl
    | some m => exact congrArg Host.Outcome.next (rxByte_observed s.ports.rxData m s)
  · rfl

theorem decodeStep_observed {s : State} (hp : s.phase = .decoding) :
    blockAfter (decodeStep s.observed) = blockAfter (decodeStep s) := by
  rw [decodeStep_eq hp, decodeStep_eq (observed_phase s ▸ hp), observed_fb, observed_replyClassOf]
  cases judgement (replyClassOf s) s.fb.frame <;> rfl

theorem ackStep_observed {s : State} (ht : s.phase.terminal = true) :
    blockAfter (ackStep s.observed) = blockAfter (ackStep s) := by
  rw [ackStep, ackStep, observed_resReady ht]
  split <;> rfl

theorem exchange_observed (s : State) : blockAfter (exchange s.observed) = blockAfter (exchange s) := by
  by_cases ht : s.phase.terminal = true
  · rw [exchange_terminal ht, exchange_terminal (observed_phase s ▸ ht), ackStep_observed ht]
  rw [exchange, exchange, observed_phase]
  cases hp : s.phase with
  | idle | encoding => rfl
  | writing => exact writingStep_observed hp
  | awaitingReply => exact readingStep_observed (.inl hp)
  | reading => exact readingStep_observed (.inr hp)
  | decoding => exact decodeStep_observed hp
  | success | protocolError | transportError | refused => exact absurd (by rw [hp]; rfl) ht

/-- An edge does to the block what it does with the heard inputs alone. -/
theorem edge_observed (s : State) : blockAfter (edge s.observed) = blockAfter (edge s) := by
  rw [edge_eq, edge_eq, observed_rst, observed_phase]
  split
  · rfl
  split
  · next hp =>
    obtain ⟨hvalid, haddr, hcmd, hargv, harg⟩ := observed_request hp
    rw [hvalid, haddr, hcmd, hargv, harg]
    split
    · exact congrArg Host.Outcome.next (acceptStep_observed ..)
    · rfl
  · exact exchange_observed s

end Sys2Proof.Machine
end

section
/-! The statements about bad replies and about what the block hears (R202, R205, R208, R209). -/

namespace Sys2Proof.Settled

open Sys2Proof Sys2Proof.Machine

/-- Settles O31: no class reads a bad frame, so the judgement of each is the same for all commands. -/
theorem commandJudgesBadFrame : Obligations.CommandJudgesBadFrame := by
  unfold Obligations.CommandJudgesBadFrame
  intro c a v x s hp hold
  refine ⟨fun hv => ?_, fun hv hpre => ?_⟩
  · rw [exec_judges hp hold (judgement_of_bad_checksum _ hv), judgedState, hv]
    rfl
  · have hpre : preambleValid s.fb.frame = false := by
      rwa [← Bool.not_eq_true, preambleValid_frame]
    rw [exec_judges hp hold (judgement_of_bad_preamble _ hv hpre), judgedState, hv, hpre]
    rfl

/-- Settles O53: the two blocks are the same observed state, and an edge of a state is one of its observed state. -/
theorem onlyHeardInputsMatter : Obligations.OnlyHeardInputsMatter := by
  unfold Obligations.OnlyHeardInputsMatter
  intro s s' t hsame hcc hfree hheard hstep
  obtain ⟨u, hu, rfl⟩ := step_next_iff.mp hstep
  have hobs : s'.observed = s.observed := observed_congr (block_eq_iff.mpr ⟨hsame, hcc, hfree⟩) hheard
  have hedge : blockAfter (edge s') = .next u.block := by
    rw [← edge_observed, hobs, edge_observed, hu]; rfl
  obtain ⟨u', hu', hblock⟩ := blockAfter_eq_next_iff.mp hedge
  refine ⟨nextInputs u', step_next_iff.mpr ⟨u', hu', rfl⟩, block_eq_iff.mp ?_⟩
  rw [nextInputs_block, nextInputs_block, hblock]

end Sys2Proof.Settled
end


section
/-! The edge with `rst = 1` and the outputs while it is 1 (R230, R231). -/

namespace Sys2Proof.Machine

open Sys2Proof

/-- Reset wins over every step, whatever the phase and the other inputs. -/
theorem edge_of_rst {s : State} (hr : s.ports.rst = true) : edge s = .next (resetEdge s) := by
  rw [edge_eq, if_pos hr]

/-- The next sample of the ports is no control register. -/
theorem ControlReset.nextInputs {s : State} (h : ControlReset s) : ControlReset (nextInputs s) where
  phase := (nextInputs_phase s).trans h.phase
  idx := (nextInputs_idx s).trans h.idx
  ckOk := (nextInputs_ckOk s).trans h.ckOk
  preOk := (nextInputs_preOk s).trans h.preOk
  resKind := (nextInputs_resKind s).trans h.resKind
  resCode := (nextInputs_resCode s).trans h.resCode

/-- R231: an edge with `rst = 1` moves no byte, for TX and RX take place outside reset only. -/
theorem streams_of_rst {s t : State} (hr : s.ports.rst = true) (h : step s = .next t) :
    t.txStream = s.txStream ∧ t.rxTaken = s.rxTaken := by
  have htx : ¬ HandsOver s := fun ⟨hrst, _⟩ => by simp [hr] at hrst
  have hrx : ¬ TakesIn s := fun ⟨hrst, _⟩ => by simp [hr] at hrst
  exact streams_of_noStreamEvent (step_noStreamEvent h htx hrx)

/-- The four handshake outputs are gated by `rst`. -/
theorem handshakes_of_rst {s : State} (hr : s.ports.rst = true) :
    (outputs s).reqReady = false ∧ (outputs s).txValid = false ∧ (outputs s).rxReady = false ∧
      (outputs s).resValid = false := by
  simp [outputs, hr]

end Sys2Proof.Machine
end

section
/-! The statement about an edge with `rst = 1` (R230, R231). -/

namespace Sys2Proof.Settled

open Sys2Proof Sys2Proof.Machine

/-- Settles O21: the edge is the reset edge in every phase, so neither TX nor RX takes place. -/
theorem resetEdgeFromAnyPhase : Obligations.ResetEdgeFromAnyPhase := by
  unfold Obligations.ResetEdgeFromAnyPhase
  intro s hr
  have hstep : step s = .next (nextInputs (resetEdge s)) :=
    step_next_iff.mpr ⟨resetEdge s, edge_of_rst hr, rfl⟩
  obtain ⟨htx, hrx⟩ := streams_of_rst hr hstep
  have hcode : (nextInputs (resetEdge s)).cmdCode = s.cmdCode := by simp
  exact ⟨⟨_, hstep, (resetEdge_controlReset s).nextInputs, htx, hrx, hcode⟩, handshakes_of_rst hr⟩

end Sys2Proof.Settled
end
